-- ==== Sys2Proof/Word.lean ====
section
/-! DEFINITION. The word types of the block (00_scope R8, 30_encoding R60). -/
namespace Sys2Proof

/-- One byte of the source's stream (20_memory R40). -/
abbrev Byte := BitVec 8

/-- A command word or a FIELDS element word (30_encoding R60). -/
abbrev CmdWord := BitVec 16

/-- The accumulator's and a field value's word (00_scope R6). -/
abbrev Word64 := BitVec 64

/-- A field width as the WIDTH field encodes it, 0..127 (30_encoding R65). -/
abbrev Width := BitVec 7

end Sys2Proof
end

