-- ==== Sys2Proof/Machine/Operands.lean ====
section
/-! DEFINITION. The fields of a command word (30_encoding R60 to R65): the only operand forms are WIDTH and COUNT. -/
namespace Sys2Proof.Machine

/-- OP = W[15:14] (30_encoding R60). -/
def opField (w : CmdWord) : BitVec 2 := w.extractLsb' 14 2

/-- RSV = W[13:7] of format R (30_encoding R61). -/
def rsvField (w : CmdWord) : BitVec 7 := w.extractLsb' 7 7

/-- WIDTH = W[6:0] of format R, zero-extended where it is used (30_encoding R61, R65). -/
def widthField (w : CmdWord) : Width := w.extractLsb' 0 7

/-- COUNT = W[13:0] of format H (30_encoding R62, R65). -/
def countField (w : CmdWord) : BitVec 14 := w.extractLsb' 0 14

/-- ZERO = W[13:0] of format I (30_encoding R64). -/
def zeroField (w : CmdWord) : BitVec 14 := w.extractLsb' 0 14

end Sys2Proof.Machine
end

