-- ==== Sys2Proof/Syntax.lean ====
section
/-! DEFINITION. The commands of the block, one constructor per row of the opcode map (30_encoding R66), and the lines of
the assembly syntax (30_encoding R71). -/
namespace Sys2Proof

/-- A command. NOP is `read 0` (30_encoding R71). -/
inductive Instr where
  /-- `READ n` (41_read R110): the width field as encoded, 65..127 included (30_encoding R68). -/
  | read (width : Width)
  /-- `FIELDS w1, …, wk` (42_read_fields R125): the element words as the host sent them, since an element is decoded and
  checked only when it is reached (42_read_fields R122, R124). -/
  | fields (elements : List CmdWord)
  /-- `INIT` (40_init R80). -/
  | init
deriving DecidableEq, Repr

/-- The pseudo-instruction NOP (30_encoding R71). -/
def Instr.nop : Instr := .read 0

/-- One line of assembly (30_encoding R71), its numbers as written. -/
inductive AsmLine where
  | read (n : Nat)
  | fields (widths : List Nat)
  | init
  | nop
deriving DecidableEq, Repr

end Sys2Proof
end

