-- ==== Sys2Proof/Config.lean ====
section
/-! DEFINITION. The parameters of the block (00_scope R6) and the values the spec leaves free (log entries 3 and 10). -/
namespace Sys2Proof

/-- `W`, the accumulator's width (00_scope R6). -/
abbrev Config.accWidth : Nat := 64

/-- `MAX_WIDTH`, the largest legal field width (00_scope R6). -/
abbrev Config.maxWidth : Nat := 64

/-- `MAX_REFILL`, the most bytes one refill asks for (00_scope R6). -/
abbrev Config.maxRefill : Nat := 8

/-- The largest COUNT that `COUNT_BITS` = 14 bits hold (00_scope R6, 30_encoding R62). -/
abbrev Config.maxCount : Nat := 16383

/-- PARAMETER without a value (log entry 10): which natural numbers beside 0 name an error code of the source. Nothing can
be proved of it, so what is proved of the model holds for every choice of it. -/
opaque Config.isSrcErr : Nat → Bool

/-- `SRC_ERR`, the type of the source's opaque error codes: a parameter of the model (00_scope R6, D25, U6). It is fixed by
the uninterpreted `Config.isSrcErr` alone: any finite or countable set of codes, not empty, up to their names. -/
abbrev Config.SrcErr : Type := { c : Nat // c = 0 ∨ Config.isSrcErr c = true }

/-- One error code, which every choice of the parameter has. -/
def Config.someSrcErr : Config.SrcErr := ⟨0, .inl rfl⟩

/-- FREE VALUE (log entry 3, safe): register N between commands (10_state R29, U10). -/
opaque Config.freeN : Nat → BitVec 7

/-- FREE VALUE (log entry 3, safe): register REM between commands (10_state R29, U10). -/
opaque Config.freeRem : Nat → BitVec 7

/-- FREE VALUE (log entry 3, safe): register VAL between commands (10_state R29, U10). -/
opaque Config.freeVal : Nat → Word64

/-- FREE VALUE (log entry 3, safe): register K between commands (10_state R29, U10). -/
opaque Config.freeK : Nat → BitVec 14

/-- FREE VALUE (log entry 3, safe): register IDX between commands (10_state R29, U10). -/
opaque Config.freeIdx : Nat → BitVec 14

/-- FREE VALUE (log entry 3, safe): CONSUMED between commands (10_state R29, U10). -/
opaque Config.freeConsumed : Nat → Nat

/-- FREE VALUE (log entry 3, safe): RESULTS between commands (10_state R29, U10). -/
opaque Config.freeResults : Nat → List Word64

end Sys2Proof
end

