-- ==== Sys2Proof/WellFormed.lean ====
section
/-! DEFINITION. Which commands the command words can encode (30_encoding R62, R65, R72). -/
namespace Sys2Proof

/-- A FIELDS command holds at most 16383 elements, what COUNT's 14 bits can say (30_encoding R62, R72). Every READ and
INIT is encodable: a width has 7 bits by its type (30_encoding R61, R68), and INIT has no operand (R64). -/
def Instr.wellFormed : Instr → Bool
  | .read _ => true
  | .fields elements => decide (elements.length ≤ Config.maxCount)
  | .init => true

end Sys2Proof
end

