-- ==== Sys2Proof/Decode.lean ====
section
/-! DEFINITION. Decoding a transaction of the host port (30_encoding R60 to R70), total on any words and rejecting by
name; the encoder and the assembler beside it, from the same tables. -/
namespace Sys2Proof

open Machine (opField rsvField widthField countField zeroField)

/-- Why a transaction is no command. -/
inductive DecodeError where
  /-- OP = 0b11: IllegalCommand (30_encoding R67 case 1). -/
  | reservedOpcode (w : CmdWord)
  /-- OP = 0b00 with RSV ≠ 0: IllegalCommand (30_encoding R67 case 2). -/
  | reservedBitsSet (w : CmdWord)
  /-- OP = 0b10 with W[13:0] ≠ 0: IllegalCommand (30_encoding R67 case 3). -/
  | initWithOperand (w : CmdWord)
  /-- Not one command word, nor a FIELDS header with exactly COUNT element words: no transaction at all
  (30_encoding R60, R63; a host that breaks 20_memory R55's duty, U14). -/
  | wrongLength
deriving DecidableEq, Repr

/-- What the decoder answers. -/
inductive Decoded where
  | instr (i : Instr)
  | rejected (e : DecodeError)
deriving DecidableEq, Repr

/-- The word that IllegalCommand reports, for the rejections that raise it (30_encoding R67). -/
def illegalWord : DecodeError → Option CmdWord
  | .reservedOpcode w => some w
  | .reservedBitsSet w => some w
  | .initWithOperand w => some w
  | .wrongLength => none

/-- A one-word transaction that is no FIELDS header (30_encoding R66, R67). -/
def decodeSingle (w : CmdWord) : Decoded :=
  if opField w = 0b00#2 then
    if rsvField w = 0 then .instr (.read (widthField w)) else .rejected (.reservedBitsSet w)
  else if opField w = 0b10#2 then
    if zeroField w = 0 then .instr .init else .rejected (.initWithOperand w)
  else .rejected (.reservedOpcode w)

/-- Decode a transaction: one command word, or a FIELDS header and its element words (30_encoding R60, R63, R66). The
element words are not looked at here (42_read_fields R122). -/
def decode : List CmdWord → Decoded
  | [] => .rejected .wrongLength
  | w :: elements =>
    if opField w = 0b01#2 then
      if elements.length = (countField w).toNat then .instr (.fields elements) else .rejected .wrongLength
    else match elements with
      | [] => decodeSingle w
      | _ :: _ => .rejected .wrongLength

/-- Decode an element word of FIELDS: its width, or none where the word is illegal there (30_encoding R66, R67 case 4). -/
def decodeElement (w : CmdWord) : Option Width :=
  if opField w = 0b00#2 ∧ rsvField w = 0 then some (widthField w) else none

/-- The format-R word of a width (30_encoding R61), also the element word of that width. -/
def encodeWidth (n : Width) : CmdWord := 0b000000000#9 ++ n

/-- The FIELDS header word of a count (30_encoding R62). -/
def encodeHeader (k : BitVec 14) : CmdWord := 0b01#2 ++ k

/-- The words of a command (30_encoding R61 to R64). -/
def encode : Instr → List CmdWord
  | .read n => [encodeWidth n]
  | .fields elements => encodeHeader (BitVec.ofNat 14 elements.length) :: elements
  | .init => [0x8000#16]

/-- Assemble a width operand: 0..127, nothing larger can be written (30_encoding R68, R71). -/
def assembleWidth (n : Nat) : Option CmdWord :=
  if n ≤ 127 then some (encodeWidth (BitVec.ofNat 7 n)) else none

/-- Assemble a list of width operands, each 0..127 (30_encoding R71). -/
def assembleWidths : List Nat → Option (List CmdWord)
  | [] => some []
  | n :: ns =>
    match assembleWidth n, assembleWidths ns with
    | some w, some ws => some (w :: ws)
    | _, _ => none

/-- Assemble one line (30_encoding R71); none where an operand is out of the line's range. -/
def assemble : AsmLine → Option (List CmdWord)
  | .read n => (assembleWidth n).map fun w => [w]
  | .fields widths =>
    if widths.length ≤ Config.maxCount then
      (assembleWidths widths).map fun ws => encodeHeader (BitVec.ofNat 14 widths.length) :: ws
    else none
  | .init => some [0x8000#16]
  | .nop => some [0x0000#16]

/-- Word `i` of an instruction whose bits are the number `w`, bit 0 the least significant bit of word 0. -/
def tableWord (w i : Nat) : CmdWord := BitVec.ofNat 16 (w >>> (16 * i))

/-- The transaction of an opcode-table word: its first word says how many follow (30_encoding R63); the bits from `nbits`
up are zero. -/
def tableTransaction (nbits w : Nat) : List CmdWord :=
  let bits := w % 2 ^ nbits
  let first := tableWord bits 0
  let more := if opField first = 0b01#2 then (countField first).toNat else 0
  first :: (List.range more).map fun i => tableWord bits (i + 1)

/-- The command the decoder reads from an opcode-table word of `nbits` bits. -/
def decodeTableWord (nbits w : Nat) : Option Instr :=
  match decode (tableTransaction nbits w) with
  | .instr i => some i
  | .rejected _ => none

end Sys2Proof
end

