-- ==== Sys2Proof/Machine/State.lean ====
section
/-! DEFINITION. The state of the block (10_state R21, R29), the moves of the host and of the byte source it reads
(20_memory R41, R42, R52 to R55), and the reasons a step can stop. -/
namespace Sys2Proof.Machine

/-- CTRL (10_state R21, R26). The value 3 is never held (U13). -/
inductive Ctrl where
  /-- No command is executing. -/
  | idle
  /-- A command is executing and not waiting. -/
  | busy
  /-- A refill request waits for its response. -/
  | waitSrc
deriving DecidableEq, Repr

/-- A response status (60_exceptions R140, codes 0 to 3; a response never carries another, U13). -/
inductive Status where
  | ok
  | cleanEos
  | truncated
  | sourceError
deriving DecidableEq, Repr

/-- A fatal fault cause (60_exceptions R140, codes 4 and 5). -/
inductive FatalCause where
  | contractViolation
  | illegalCommand
deriving DecidableEq, Repr

/-- A response of the source to a request for k bytes (20_memory R42). -/
inductive SrcResponse where
  /-- All k bytes were delivered, the first in stream order first. -/
  | ok (bytes : List Byte)
  /-- End of stream with no byte transferred. -/
  | eofZero
  /-- End of stream after j bytes were transferred. -/
  | eofPartial (j : Nat)
  /-- Any other failure, with the source's opaque code. -/
  | ioError (e : Config.SrcErr)
deriving DecidableEq, Repr

/-- What is bound to the source port (10_state R30: the wiring, no state of the block; log entry 5). -/
inductive Source where
  /-- Any source: its answers stand in the list of moves to come, under no law (20_memory R57). -/
  | external
  /-- The reference source with the bytes it still holds (20_memory R57): it answers every request at once. -/
  | reference (bytes : List Byte)
deriving DecidableEq, Repr

/-- A move of the host or of the source (20_memory R55; log entry 6). -/
inductive EnvEvent where
  /-- The host issues a transaction, all of its words (20_memory R52). -/
  | command (words : List CmdWord)
  /-- The host issues a transaction, and what may come at any time finds the core executing it (70_reset_and_hazards R170,
  R171; log entry 8). -/
  | commandHeld (words : List CmdWord)
  /-- The source answers the outstanding request (20_memory R41, R42). -/
  | answer (r : SrcResponse)
  /-- The source answers the outstanding request, and what may come at any time finds the core executing again (20_memory
  R41 step 3; log entry 8). -/
  | answerHeld (r : SrcResponse)
  /-- No move of the host or the source: an executing core does one turn of its loop before the next move (41_read R108,
  42_read_fields R125; log entry 8). -/
  | turn
  /-- The source answers a request that a reset abandoned (70_reset_and_hazards R171). -/
  | abandonedAnswer (r : SrcResponse)
  /-- The host asserts hardware reset (70_reset_and_hazards R170). -/
  | reset
  /-- The host reads the status view (20_memory R54). -/
  | readStatus
  /-- The host binds a source (20_memory R55, 10_state R30). -/
  | bind (src : Source)
  /-- Another agent takes bytes from the bound source (20_memory R47, 70_reset_and_hazards R177). -/
  | foreignConsume
deriving DecidableEq, Repr

/-- A response to the host (20_memory R53). -/
structure Response where
  status : Status
  /-- READ: the field when the status is OK; 0 otherwise and for INIT and FIELDS. -/
  value : Word64
  /-- FIELDS with status OK: the fields in element order; otherwise empty. -/
  values : List Word64
  /-- The source's code when the status is SOURCE_ERROR; otherwise absent. -/
  srcerr : Option Config.SrcErr
deriving DecidableEq, Repr

/-- What a read of the status view returns (20_memory R54, 10_state R25). -/
structure StatusView where
  fault : BitVec 1
  faultCause : BitVec 3
  faultInfo : CmdWord
deriving DecidableEq, Repr

/-- The working registers (10_state R29). They mean something only while a command executes. -/
structure Working where
  /-- N, the requested width. -/
  n : BitVec 7
  /-- REM, the remaining bit count. -/
  rem : BitVec 7
  /-- VAL, the partial result. -/
  val : Word64
  /-- K, the number of elements (FIELDS only). -/
  k : BitVec 14
  /-- IDX, the element being processed, from 1 (FIELDS only). -/
  idx : BitVec 14
  /-- CONSUMED, the bits this FIELDS command has delivered. -/
  consumed : Nat
  /-- RESULTS, the values completed so far (FIELDS only). -/
  results : List Word64
deriving DecidableEq, Repr

/-- The state of one instance of the block (10_state R37) with the observations of 00_scope R14. -/
structure State where
  /-- ACC (10_state R21): the residue is ACC[RCNT−1:0] (R22), the rest is stale (R23, R24). -/
  acc : Word64
  /-- RCNT (10_state R21). -/
  rcnt : BitVec 7
  /-- FAULT (10_state R25). -/
  fault : BitVec 1
  /-- FAULT_CAUSE (10_state R25). -/
  faultCause : BitVec 3
  /-- FAULT_INFO (10_state R25). -/
  faultInfo : CmdWord
  /-- CTRL (10_state R26). -/
  ctrl : Ctrl
  /-- The outstanding refill request's byte count (20_memory R41). -/
  request : Option Nat
  /-- The working registers (10_state R29). -/
  work : Working
  /-- The model's own: the command in execution (log entry 4). -/
  cur : Option Instr
  /-- The model's own: the binding of the source port (log entry 5). -/
  source : Source
  /-- The model's own: the moves of host and source still to come (log entry 6). -/
  env : List EnvEvent
  /-- Observation (00_scope R14): the responses given, oldest first. -/
  responses : List Response
  /-- Observation (00_scope R14): the byte counts of the requests issued, oldest first. -/
  requests : List Nat
  /-- Observation (20_memory R54): what the reads of the status view returned, oldest first. -/
  statusReads : List StatusView
  /-- The model's own: how many free values have been drawn (log entry 3). -/
  draws : Nat
deriving DecidableEq, Repr

/-- Why the machine stops: the source broke its protocol. The spec gives the block no move there and puts no such source
in the model (20_memory R41, R42). Both reasons are safe: nothing is claimed of what follows. -/
inductive Fault where
  /-- Raised when the answer to a request is none of the four that 20_memory R42 lists for that byte count. -/
  | malformedAnswer
  /-- Raised when the source answers while no request is outstanding (20_memory R41: one answer to a request). -/
  | unsolicitedAnswer
deriving DecidableEq, Repr

/-- What the model gives no meaning to. Every reason is safe: nothing is claimed of what follows. -/
inductive Refusal where
  /-- Raised by `exec` for an instruction without a meaning; no arm does. -/
  | notModelled (mnemonic : String)
  /-- Raised when the host issues a command before the previous one has responded (20_memory R52, R55, R173; U14). -/
  | commandWhileBusy
  /-- Raised when the words of a transaction are not those its first word asks for (20_memory R55; D30, U14). -/
  | incompleteTransaction
  /-- Raised when the host binds a source while a command executes (20_memory R55, 10_state R30). -/
  | bindWhileBusy
  /-- Raised when another agent consumes from the bound source (20_memory R47; U3: refuse). -/
  | sharedSource
  /-- Raised in a state no run reaches: a command is said to execute or wait and none is there that can (a form of U13). -/
  | unreachableState
deriving DecidableEq, Repr

/-- An outcome of this machine. -/
abbrev Result := Host.Outcome State Fault Refusal

/-- The working registers at reset: the spec gives no value. DESIGN CHOICE zero (log entry 2, unsafe). -/
def Working.atReset : Working :=
  { n := 0, rem := 0, val := 0, k := 0, idx := 0, consumed := 0, results := [] }

/-- The working registers at the end of a command: free values (10_state R29, R35, U10; log entry 3). -/
def Working.free (d : Nat) : Working :=
  { n := Config.freeN d, rem := Config.freeRem d, val := Config.freeVal d, k := Config.freeK d, idx := Config.freeIdx d,
    consumed := Config.freeConsumed d, results := Config.freeResults d }

/-- The block just after hardware reset (10_state R35, 70_reset_and_hazards R170). The spec gives ACC and the working
registers no value there: DESIGN CHOICE zero (log entries 1 and 2, unsafe). The fields of the environment are the model's
own (log entries 4 to 7). -/
def State.reset : State :=
  { acc := 0, rcnt := 0, fault := 0, faultCause := 0, faultInfo := 0x0000#16, ctrl := .idle, request := none,
    work := Working.atReset, cur := none, source := .external, env := [], responses := [], requests := [],
    statusReads := [], draws := 0 }

end Sys2Proof.Machine
end

