-- ==== Sys2Proof/Machine/Flags.lean ====
section
/-! DEFINITION. The block has no flags register (10_state R28). Here stand what takes a flag's place: the condition codes
of 60_exceptions R140 and the two end-of-stream classifications (41_read R95, 42_read_fields R123). -/
namespace Sys2Proof.Machine

/-- The code of a response status (60_exceptions R140). -/
def Status.code : Status → BitVec 3
  | .ok => 0
  | .cleanEos => 1
  | .truncated => 2
  | .sourceError => 3

/-- The code of a fatal fault cause (60_exceptions R140). -/
def FatalCause.code : FatalCause → BitVec 3
  | .contractViolation => 4
  | .illegalCommand => 5

/-- The code of CTRL (10_state R21). -/
def Ctrl.code : Ctrl → BitVec 2
  | .idle => 0
  | .busy => 1
  | .waitSrc => 2

/-- What an EOF_ZERO makes of one ReadCore: clean exactly when no bit of the field has been taken (41_read R95, C1). -/
def eosStatus (rem n : BitVec 7) : Status := if rem = n then .cleanEos else .truncated

/-- The status of a batch whose element ended with `st` after `consumed` delivered bits (42_read_fields R123, C2). -/
def batchStatus (consumed : Nat) : Status → Status
  | .cleanEos => if consumed = 0 then .cleanEos else .truncated
  | .truncated => .truncated
  | .sourceError => .sourceError
  | .ok => .ok

end Sys2Proof.Machine
end

