-- ==== Sys2Proof/Machine/Ops.lean ====
section
/-! DEFINITION. The named operations over the block's state: the masking unit (41_read R96 to R100), the refill controller
(R91 to R94), the source port (20_memory R41, R57), the host port (R52 to R54), the fatal fault (60_exceptions R146) and
hardware reset (70_reset_and_hazards R170). Arithmetic is exact, on natural numbers (00_scope R9). -/
namespace Sys2Proof.Machine

/-! ## The masking and right-justify unit -/

/-- mask(m) = 2^m − 1 (41_read R97). -/
def mask (m : Nat) : Nat := 2 ^ m - 1

/-- The chunk of `m` bits from the most significant valid end of the residue (41_read R96). -/
def chunk (acc rcnt m : Nat) : Nat := (acc >>> (rcnt - m)) &&& mask m

/-- Fold a chunk of `m` bits into the partial result (41_read R100). -/
def fold (val m b : Nat) : Nat := (val <<< m) ||| b

/-- One step of the accumulation loop after any refill: take m = min(RCNT, REM) bits, fold them in, consume them. ACC is
not written (41_read R96 to R100). -/
def takeChunk (s : State) : State :=
  let m := min s.rcnt.toNat s.work.rem.toNat
  let b := chunk s.acc.toNat s.rcnt.toNat m
  { s with
    rcnt := BitVec.ofNat 7 (s.rcnt.toNat - m)
    work := { s.work with
      val := BitVec.ofNat 64 (fold s.work.val.toNat m b)
      rem := BitVec.ofNat 7 (s.work.rem.toNat - m) } }

/-! ## The refill controller -/

/-- ceil(REM / 8), the bytes a refill asks for (41_read R91). -/
def refillSize (rem : Nat) : Nat := (rem + 7) / 8

/-- B[0] ‖ B[1] ‖ … as a number, the first byte most significant (41_read R93, 20_memory R44). -/
def packBytes (bytes : List Byte) : Nat := bytes.foldl (fun a b => a * 256 + b.toNat) 0

/-- A successful refill: ACC <- zext_64(B[0] ‖ …), RCNT <- 8·k (41_read R93, D9). -/
def refill (bytes : List Byte) (s : State) : State :=
  { s with acc := BitVec.ofNat 64 (packBytes bytes), rcnt := BitVec.ofNat 7 (8 * bytes.length) }

/-- What a response does to a ReadCore. -/
inductive AnswerEffect where
  /-- The refill succeeded; the loop goes on. -/
  | refilled (s : State)
  /-- The refill failed and wrote nothing; ReadCore ends. -/
  | failed (status : Status) (srcerr : Option Config.SrcErr)

/-- The core acts on a response to its request (41_read R93, R94, R95). -/
def onAnswer (r : SrcResponse) (s : State) : AnswerEffect :=
  match r with
  | .ok bytes => .refilled (refill bytes s)
  | .eofZero => .failed (eosStatus s.work.rem s.work.n) none
  | .eofPartial _ => .failed .truncated none
  | .ioError e => .failed .sourceError (some e)

/-! ## The source port -/

/-- Whether a response is one of the four that a request for `k` bytes can get (20_memory R42). -/
def SrcResponse.fits (k : Nat) : SrcResponse → Bool
  | .ok bytes => bytes.length == k
  | .eofZero => true
  | .eofPartial j => decide (0 < j ∧ j < k)
  | .ioError _ => true

/-- The reference source's answer to a request for `k` bytes, and what it holds afterwards (20_memory R57). -/
def referenceAnswer (k : Nat) (held : List Byte) : SrcResponse × List Byte :=
  if k ≤ held.length then (.ok (held.take k), held.drop k)
  else if held.length = 0 then (.eofZero, held)
  else (.eofPartial held.length, [])

/-- Issue a request for `k` bytes (20_memory R41 step 1). -/
def issueRequest (k : Nat) (s : State) : State :=
  { s with ctrl := .waitSrc, request := some k, requests := s.requests ++ [k] }

/-- The answer has come: the request is no longer outstanding and the command runs on (20_memory R41 step 3). -/
def takeAnswer (s : State) : State := { s with ctrl := .busy, request := none }

/-- What `SourceReadExact` came to. -/
inductive PortResult where
  /-- The source has answered. -/
  | answered (r : SrcResponse) (s : State)
  /-- The source has not answered yet: CTRL = WAIT_SRC. -/
  | waiting (s : State)
  /-- The source broke its protocol. -/
  | broken (f : Fault)

/-- SourceReadExact(k) (00_scope R10, 20_memory R41): issue the request, and take the answer if it is the very next move;
otherwise the core is left waiting. -/
def sourceReadExact (k : Nat) (s : State) : PortResult :=
  let s' := issueRequest k s
  match s.source with
  | .reference held =>
    .answered (referenceAnswer k held).1 (takeAnswer { s' with source := .reference (referenceAnswer k held).2 })
  | .external =>
    match s.env with
    | .answer r :: rest =>
      if r.fits k then .answered r (takeAnswer { s' with env := rest }) else .broken .malformedAnswer
    | _ => .waiting s'

/-! ## The host port -/

/-- The core accepts a transaction only with FAULT = 0 and CTRL = IDLE (20_memory R52). A faulted core does nothing with it
(60_exceptions R148, R149); a host that issues one to a busy core has no move (U14). The third condition of R52 holds with
CTRL = IDLE, since `respond` hands the response over (00_scope R10). -/
def accept (s : State) (run : State → Result) : Result :=
  if s.fault = 1#1 then .next s
  else if s.ctrl = .idle then run s
  else .refused .commandWhileBusy

/-- A command is accepted: CTRL <- BUSY (10_state R26). -/
def begin (i : Instr) (s : State) : State := { s with ctrl := .busy, cur := some i }

/-- A command is over: CTRL <- IDLE, and the working registers hold nothing defined (10_state R26, R29). -/
def endCommand (s : State) : State :=
  { s with ctrl := .idle, cur := none, work := Working.free s.draws, draws := s.draws + 1 }

/-- respond(status, payload): end the command and hand its response to the host (00_scope R10, 20_memory R53). -/
def respond (r : Response) (s : State) : State :=
  endCommand { s with responses := s.responses ++ [r] }

/-- The response of INIT and READ (20_memory R53). -/
def valueResponse (st : Status) (v : Word64) (e : Option Config.SrcErr) : Response :=
  { status := st, value := v, values := [], srcerr := e }

/-- The response of FIELDS (20_memory R53). -/
def listResponse (st : Status) (vs : List Word64) (e : Option Config.SrcErr) : Response :=
  { status := st, value := 0, values := vs, srcerr := e }

/-- The host reads the status view, without affecting the core (20_memory R54). -/
def readStatusView (s : State) : State :=
  { s with statusReads := s.statusReads ++ [{ fault := s.fault, faultCause := s.faultCause, faultInfo := s.faultInfo }] }

/-! ## The fatal fault, and the one way out of it -/

/-- raise: enter the faulted state with the offending word; no response; ACC and RCNT keep their values
(60_exceptions R146). -/
def raiseFatal (c : FatalCause) (w : CmdWord) (s : State) : State :=
  endCommand { s with fault := 1, faultCause := c.code, faultInfo := w }

/-- Hardware reset (70_reset_and_hazards R170, R171): the block's state is that of `State.reset`, a running command and its
outstanding request are abandoned without a response, and nothing outside the block changes. -/
def hardwareReset (s : State) : State :=
  { State.reset with
    source := s.source, env := s.env, responses := s.responses, requests := s.requests, statusReads := s.statusReads,
    draws := s.draws }

end Sys2Proof.Machine
end

