-- ==== Sys2Proof/Machine/ReadCore.lean ====
section
/-! DEFINITION. ReadCore, the one primitive of READ and FIELDS (41_read R90 to R108). -/
namespace Sys2Proof.Machine

/-- What a ReadCore came to. -/
inductive CoreResult where
  /-- It returned (status, value, srcerr). -/
  | done (status : Status) (value : Word64) (srcerr : Option Config.SrcErr) (s : State)
  /-- It waits for the source (20_memory R41). -/
  | waiting (s : State)
  /-- It raised a fatal fault (41_read R90). -/
  | raised (s : State)
  /-- The source broke its protocol. -/
  | broken (f : Fault)

/-- N <- n; REM <- n; VAL <- 0 (41_read R90). -/
def enterCore (n : Width) (s : State) : State := { s with work := { s.work with n := n, rem := n, val := 0 } }

/-- What one turn of the accumulation loop came to. -/
inductive LoopTurn where
  /-- The loop goes on with its next turn. -/
  | more (s : State)
  /-- The loop ends, or waits. -/
  | ends (res : CoreResult)

/-- One turn of the accumulation loop: a refill if the residue is empty, then one chunk (41_read R91 to R100, R108). -/
def readTurn (s : State) : LoopTurn :=
  if s.work.rem = 0 then .ends (.done .ok s.work.val none s)
  else if s.rcnt = 0 then
    match sourceReadExact (refillSize s.work.rem.toNat) s with
    | .answered r s' =>
      match onAnswer r s' with
      | .refilled s'' => .more (takeChunk s'')
      | .failed st e => .ends (.done st 0 e s')
    | .waiting s' => .ends (.waiting s')
    | .broken f => .ends (.broken f)
  else .more (takeChunk s)

/-- The accumulation loop (41_read R108). Every turn takes at least one bit, so a fuel of REM turns is enough: when it is
used up, REM = 0. -/
def readLoop : Nat → State → CoreResult
  | 0, s => .done .ok s.work.val none s
  | fuel + 1, s =>
    match readTurn s with
    | .more s' => readLoop fuel s'
    | .ends res => res

/-- ReadCore(n) on behalf of the word `w` (41_read R90, R108). -/
def readCore (w : CmdWord) (n : Width) (s : State) : CoreResult :=
  if Config.maxWidth < n.toNat then .raised (raiseFatal .contractViolation w s)
  else readLoop n.toNat (enterCore n s)

/-- A waiting ReadCore goes on with the source's answer (20_memory R41 step 3, 41_read R93, R94). -/
def resumeCore (r : SrcResponse) (s : State) : CoreResult :=
  match onAnswer r s with
  | .refilled s' => readLoop s'.work.rem.toNat s'
  | .failed st e => .done st 0 e s

end Sys2Proof.Machine
end

