-- ==== Sys2Proof/Machine/Fields.lean ====
section
/-! DEFINITION. FIELDS (42_read_fields R120 to R127). -/
namespace Sys2Proof.Machine

/-- K <- H[13:0]; CONSUMED <- 0; RESULTS <- [] (42_read_fields R120); IDX is 0 before the first element. -/
def enterBatch (count : Nat) (s : State) : State :=
  { s with work := { s.work with k := BitVec.ofNat 14 count, idx := 0, consumed := 0, results := [] } }

/-- The batch reaches its next element (42_read_fields R120, R122). -/
def nextElement (s : State) : State := { s with work := { s.work with idx := s.work.idx + 1 } }

/-- An element returned OK: RESULTS <- RESULTS ++ [v]; CONSUMED <- CONSUMED + the element's width, which N holds
(42_read_fields R125). -/
def recordField (v : Word64) (s : State) : State :=
  { s with work := { s.work with results := s.work.results ++ [v], consumed := s.work.consumed + s.work.n.toNat } }

/-- After an element's ReadCore: go on with the batch, or end it with the reclassified status and no values
(42_read_fields R123, R124). -/
def afterElement (res : CoreResult) (goOn : State → Result) : Result :=
  match res with
  | .done .ok v _ s => goOn (recordField v s)
  | .done st _ e s => .next (respond (listResponse (batchStatus s.work.consumed st) [] e) s)
  | .waiting s => .next s
  | .raised s => .next s
  | .broken f => .fault f

/-- The elements still to come (42_read_fields R121, R122, R125). -/
def fieldsLoop : List CmdWord → State → Result
  | [], s => .next (respond (listResponse .ok s.work.results none) s)
  | w :: rest, s =>
    match decodeElement w with
    | none => .next (raiseFatal .illegalCommand w (nextElement s))
    | some n => afterElement (readCore w n (nextElement s)) (fieldsLoop rest)

/-- The batch goes on to its next element, which its ReadCore has entered when this ends; or it ends (42_read_fields R121,
R122, R125; 41_read R90). -/
def enterNextElement (elements : List CmdWord) (s : State) : Result :=
  match elements.drop s.work.idx.toNat with
  | [] => .next (respond (listResponse .ok s.work.results none) s)
  | w :: _ =>
    match decodeElement w with
    | none => .next (raiseFatal .illegalCommand w (nextElement s))
    | some n =>
      if Config.maxWidth < n.toNat then .next (raiseFatal .contractViolation w (nextElement s))
      else .next (enterCore n (nextElement s))

/-- FIELDS w1, …, wk (42_read_fields R125). -/
def execFields (elements : List CmdWord) (s : State) : Result :=
  accept s fun s => fieldsLoop elements (enterBatch elements.length (begin (.fields elements) s))

end Sys2Proof.Machine
end

