-- ==== Sys2Proof/Machine/Init.lean ====
section
/-! DEFINITION. INIT (40_init R80 to R82). -/
namespace Sys2Proof.Machine

/-- RCNT <- 0; ACC is not written (40_init R80, D13). -/
def emptyResidue (s : State) : State := { s with rcnt := 0 }

/-- The work of INIT and its response (40_init R80): empty the residue, no source request, respond (OK, 0). -/
def finishInit (s : State) : State := respond (valueResponse .ok 0 none) (emptyResidue s)

/-- INIT (40_init R80). -/
def execInit (s : State) : Result := accept s fun s => .next (finishInit (begin .init s))

end Sys2Proof.Machine
end

