-- ==== Sys2Proof/Machine/Read.lean ====
section
/-! DEFINITION. READ (41_read R110 to R112). -/
namespace Sys2Proof.Machine

/-- The end of a READ, or its wait (41_read R110). -/
def finishRead : CoreResult → Result
  | .done st v e s => .next (respond (valueResponse st v e) s)
  | .waiting s => .next s
  | .raised s => .next s
  | .broken f => .fault f

/-- READ n (41_read R110). -/
def execRead (n : Width) (s : State) : Result :=
  accept s fun s => finishRead (readCore (encodeWidth n) n (begin (.read n) s))

end Sys2Proof.Machine
end

