-- ==== Sys2Proof/Machine/Dispatch.lean ====
section
/-! DEFINITION. One arm per command, each one call of its meaning (30_encoding R66). -/
namespace Sys2Proof.Machine

def exec (i : Instr) (s : State) : Host.Outcome State Fault Refusal :=
  match i with
  | .read width => Sys2Proof.Machine.execRead width s
  | .fields elements => Sys2Proof.Machine.execFields elements s
  | .init => Sys2Proof.Machine.execInit s

end Sys2Proof.Machine
end

