-- ==== Sys2Proof/Machine/Port.lean ====
section
/-! DEFINITION. What the next move of the host or of the source leads to (20_memory R41, R52 to R55;
70_reset_and_hazards R170, R171). -/
namespace Sys2Proof.Machine

/-- What a step does. -/
inductive Action where
  /-- It runs the command that the host has issued, on the state without that transaction in the list of moves. -/
  | run (i : Instr) (s : State)
  /-- It has come to this outcome without accepting a command. -/
  | done (o : Result)

/-- The command in execution goes on after its ReadCore came to `res`: a READ ends, a batch takes its next element
(41_read R110, 42_read_fields R125). -/
def continueCommand (s : State) (res : CoreResult) : Result :=
  match s.cur with
  | some (.read _) => finishRead res
  | some (.fields elements) => afterElement res (fieldsLoop (elements.drop s.work.idx.toNat))
  | some .init => .refused .unreachableState
  | none => .refused .unreachableState

/-- The source answers: if the answer is one to the outstanding request, the core takes it and acts (20_memory R41). -/
def answerRequest (r : SrcResponse) (s : State) (act : State → Result) : Result :=
  match s.request with
  | some k =>
    if s.fault = 0 ∧ s.ctrl = .waitSrc then
      if r.fits k then act (takeAnswer s) else .fault .malformedAnswer
    else .fault .unsolicitedAnswer
  | none => .fault .unsolicitedAnswer

/-- The source answers, and the waiting command goes on (20_memory R41 step 3). -/
def deliverAnswer (r : SrcResponse) (s : State) : Result :=
  answerRequest r s fun s' => continueCommand s (resumeCore r s')

/-- The source answers, and the core has taken the answer but not gone on with its loop (20_memory R41 step 3, 41_read R93,
R94): after a refill it is left executing; a failure ends the command. -/
def deliverAnswerHeld (r : SrcResponse) (s : State) : Result :=
  answerRequest r s fun s' =>
    match onAnswer r s' with
    | .refilled s'' => .next s''
    | .failed st e => continueCommand s (.done st 0 e s')

/-- A transaction that is no command (30_encoding R67, R69; 20_memory R55). -/
def rejectTransaction (e : DecodeError) (s : State) : Result :=
  match illegalWord e with
  | some w => accept s fun s => .next (raiseFatal .illegalCommand w s)
  | none => accept s fun _ => .refused .incompleteTransaction

/-- The host issues a transaction (20_memory R52, 30_encoding R69). -/
def offer (words : List CmdWord) (s : State) : Action :=
  match decode words with
  | .instr i => .run i s
  | .rejected e => .done (rejectTransaction e s)

/-- A command up to the point where its loop begins (41_read R90, 42_read_fields R120): CTRL = BUSY, unless a READ raises
ContractViolation there. -/
def startCommand (i : Instr) (s : State) : Result :=
  match i with
  | .read n =>
    if Config.maxWidth < n.toNat then .next (raiseFatal .contractViolation (encodeWidth n) (begin i s))
    else .next (enterCore n (begin i s))
  | .fields elements => .next (enterBatch elements.length (begin i s))
  | .init => .next (begin i s)

/-- The host issues a transaction, and the core is left at the start of the command (log entry 8). -/
def offerHeld (words : List CmdWord) (s : State) : Result :=
  match decode words with
  | .instr i => accept s (startCommand i)
  | .rejected e => rejectTransaction e s

/-- The host binds a source, which changes nothing in the block (10_state R30, 20_memory R55). -/
def bindSource (src : Source) (s : State) : Result :=
  if s.ctrl = .idle then .next { s with source := src } else .refused .bindWhileBusy

/-- A command is executing and not waiting: CTRL = BUSY on a core without a fault (10_state R26). -/
def running (s : State) : Bool := decide (s.ctrl = .busy ∧ s.fault = 0)

/-- The executing command runs on until it ends or waits (41_read R108, 42_read_fields R125, 40_init R80). -/
def runOn (s : State) : Result :=
  match s.cur with
  | some (.read _) => finishRead (readLoop s.work.rem.toNat s)
  | some (.fields elements) =>
    if s.work.idx = 0 then fieldsLoop elements s
    else afterElement (readLoop s.work.rem.toNat s) (fieldsLoop (elements.drop s.work.idx.toNat))
  | some .init => .next (finishInit s)
  | none => .refused .unreachableState

/-- The executing command does one turn: a turn of its accumulation loop, or the step to its next element, or its end
(41_read R108, 42_read_fields R125, 40_init R80). -/
def commandTurn (s : State) : Result :=
  match s.cur with
  | some (.read _) =>
    match readTurn s with
    | .more s' => .next s'
    | .ends res => finishRead res
  | some (.fields elements) =>
    if s.work.idx = 0 then enterNextElement elements s
    else match readTurn s with
      | .more s' => .next s'
      | .ends res => afterElement res (enterNextElement elements)
  | some .init => .next (finishInit s)
  | none => .refused .unreachableState

/-- One move of the environment, already taken from the list of moves. -/
def receive (e : EnvEvent) (s : State) : Action :=
  match e with
  | .command words => offer words s
  | .commandHeld words => .done (offerHeld words s)
  | .answer r => .done (deliverAnswer r s)
  | .answerHeld r => .done (deliverAnswerHeld r s)
  | .turn => .done (if running s then commandTurn s else .next s)
  | .abandonedAnswer _ => .done (.next s)
  | .reset => .done (.next (hardwareReset s))
  | .readStatus => .done (.next (readStatusView s))
  | .bind src => .done (bindSource src s)
  | .foreignConsume => .done (.refused .sharedSource)

/-- What may find the core executing a command (20_memory R54, R55, 70_reset_and_hazards R170, R171). Every other move comes
once the executing command has ended or waits. -/
def atAnyTime : EnvEvent → Bool
  | .reset => true
  | .readStatus => true
  | .abandonedAnswer _ => true
  | .turn => true
  | .command _ => false
  | .commandHeld _ => false
  | .answer _ => false
  | .answerHeld _ => false
  | .bind _ => false
  | .foreignConsume => false

/-- What the next step does: an executing command runs on, unless the next move may come at any time; otherwise the next
move is taken, and without one nothing happens (an idle block, or a wait for the source: 20_memory R41, U8). -/
def nextAction (s : State) : Action :=
  match s.env with
  | [] => if running s then .done (runOn s) else .done (.next s)
  | e :: rest => if running s ∧ atAnyTime e = false then .done (runOn s) else receive e { s with env := rest }

/-- Put a transaction before the moves to come, to a block that can accept it (20_memory R52): not faulted, and idle. -/
def offerNext (words : List CmdWord) (s : State) : State :=
  { s with env := .command words :: s.env, fault := 0, ctrl := .idle }

end Sys2Proof.Machine
end

