-- ==== Sys2Proof/Machine/Step.lean ====
section
/-! DEFINITION. One step: the next move of the environment and what it leads to, or an executing command runs on. -/
namespace Sys2Proof.Machine

/-- One step. A command is one transaction (00_scope R13): it runs to its response, its fatal fault, or a refill request
that the source has not answered yet, unless the moves of the environment find it executing (log entry 8). -/
def step (s : State) : Host.Outcome State Fault Refusal :=
  match nextAction s with
  | .run i s' => exec i s'
  | .done o => o

/-- `s` with the instruction of an opcode-table word as the host's next transaction (log entry 6). -/
def State.withFetchWord (s : State) (nbits w : Nat) : State := offerNext (tableTransaction nbits w) s

end Sys2Proof.Machine
end

