-- ==== Sys2Proof/Safety.lean ====
section
/-! DEFINITION. What the claims speak of: how a run ends (70_reset_and_hazards R179), what can be observed (00_scope R14),
the bits of the stream (00_scope R11), the invariant of the block (10_state R21, R26, R32), and what must not be observable
(10_state R24, R29; 20_memory R42). -/
namespace Sys2Proof.Safety

open Machine

/-! ## Runs -/

/-- The block can accept a transaction (20_memory R52). -/
abbrev ready (s : State) : Prop := s.fault = 0 ∧ s.ctrl = .idle

/-- The three ends of a run (70_reset_and_hazards R179); only `complete` is a good one. -/
inductive RunEnd where
  | complete
  | faulted
  | waiting
deriving DecidableEq, Repr

/-- Whether a move is a transaction of the host's command list (20_memory R52). -/
def isCommand : EnvEvent → Bool
  | .command _ => true
  | .commandHeld _ => true
  | .answer _ => false
  | .answerHeld _ => false
  | .turn => false
  | .abandonedAnswer _ => false
  | .reset => false
  | .readStatus => false
  | .bind _ => false
  | .foreignConsume => false

/-- The commands that have not responded yet: the transactions still to come, and the one in execution. -/
def unanswered (s : State) : Nat := s.env.countP isCommand + if s.cur.isSome then 1 else 0

/-- A step loses a command: a faulted core does not accept it, it enters the faulted state, or a reset abandons it
(60_exceptions R146, R148, 70_reset_and_hazards R171). -/
def losesACommand (s t : State) : Bool :=
  match s.env with
  | .reset :: _ => s.cur.isSome
  | .command _ :: _ => decide (t.fault = 1)
  | .commandHeld _ :: _ => decide (t.fault = 1)
  | _ => decide (s.fault = 0 ∧ t.fault = 1)

/-- How the run from `start` that has come to `s` has ended, if it has (70_reset_and_hazards R179). It is complete only if
every command that was unanswered at the start has responded since: a transaction responds at most once, and one that is
not accepted, that faults, or that a reset abandons, never. A run that lost a command to a reset has none of R179's ends. -/
def runEnd (start s : State) : Option RunEnd :=
  if s.fault = 1 then some .faulted
  else match s.ctrl, s.env with
    | .idle, [] =>
      if s.responses.length = start.responses.length + unanswered start then some .complete else none
    | .waitSrc, [] => some .waiting
    | _, _ => none

/-- `k` steps, up to the first stop. -/
def runSteps : Nat → State → Result
  | 0, s => .next s
  | k + 1, s =>
    match step s with
    | .next t => runSteps k t
    | .fault f => .fault f
    | .refused r => .refused r

/-- The commands `is` one after another, each run to its end (42_read_fields R127). -/
def runCommands : List Instr → State → Result
  | [], s => .next s
  | i :: is, s =>
    match exec i s with
    | .next t => runCommands is t
    | .fault f => .fault f
    | .refused r => .refused r

/-! ## Observations and frames -/

/-- What the host can observe (00_scope R14). -/
structure Observation where
  responses : List Response
  statusView : StatusView
  statusReads : List StatusView
  requests : List Nat
deriving DecidableEq, Repr

/-- The observation of a state (00_scope R14). -/
def observe (s : State) : Observation :=
  { responses := s.responses
    statusView := { fault := s.fault, faultCause := s.faultCause, faultInfo := s.faultInfo }
    statusReads := s.statusReads
    requests := s.requests }

/-- What the host observes of an outcome: of a next state its observation, else why the machine stopped. -/
def observeResult : Result → Host.Outcome Observation Fault Refusal
  | .next s => .next (observe s)
  | .fault f => .fault f
  | .refused r => .refused r

/-- The fault registers are unchanged. -/
abbrev sameFaults (s t : State) : Prop :=
  t.fault = s.fault ∧ t.faultCause = s.faultCause ∧ t.faultInfo = s.faultInfo

/-- Nothing happened on the source port, and no move was taken. -/
abbrev sameSourceSide (s t : State) : Prop :=
  t.requests = s.requests ∧ t.request = s.request ∧ t.source = s.source ∧ t.env = s.env

/-- The command is over and left no fault: CTRL = IDLE, the fault registers and the record of status reads unchanged. -/
abbrev endsWell (s t : State) : Prop :=
  t.ctrl = .idle ∧ t.cur = none ∧ sameFaults s t ∧ t.statusReads = s.statusReads

/-- The responses that `u` has and `s` has not are the values `vs`, each with the status OK. -/
abbrev respondedOk (s u : State) (vs : List Word64) : Prop :=
  u.responses = s.responses ++ vs.map fun v => valueResponse .ok v none

/-- The two states stand at the same place of the stream: ACC, RCNT, the requests issued, the binding, the moves to come. -/
abbrev sameStream (u t : State) : Prop :=
  t.acc = u.acc ∧ t.rcnt = u.rcnt ∧ t.requests = u.requests ∧ t.source = u.source ∧ t.env = u.env

/-! ## The stream -/

/-- Stream bit number p of the bytes S: the most significant bit of each byte comes first (00_scope R11). -/
def streamBit (S : List Byte) (p : Nat) : Nat := (S.getD (p / 8) 0).toNat / 2 ^ (7 - p % 8) % 2

/-- The field of n bits that starts at stream bit p: the sum over i < n of bit(p+i)·2^(n−1−i) (00_scope R11). -/
def fieldAt (S : List Byte) (p n : Nat) : Nat := ∑ i ∈ Finset.range n, streamBit S (p + i) * 2 ^ (n - 1 - i)

/-- The fields of the widths `ns`, one after another from stream bit p. -/
def fieldsAt (S : List Byte) (p : Nat) : List Nat → List Nat
  | [] => []
  | n :: ns => fieldAt S p n :: fieldsAt S (p + n) ns

/-- The block stands at bit p of the stream S of a reference source (20_memory R57): the source has given the bytes up to
the residue's end and holds the rest (10_state R34), and the residue is the next RCNT bits of the stream (10_state R22). -/
def standsAt (S : List Byte) (p : Nat) (s : State) : Prop :=
  (p + s.rcnt.toNat) % 8 = 0 ∧ p + s.rcnt.toNat ≤ 8 * S.length ∧
  s.source = .reference (S.drop ((p + s.rcnt.toNat) / 8)) ∧
  s.acc.toNat % 2 ^ s.rcnt.toNat = fieldAt S p s.rcnt.toNat

/-! ## The invariant between steps -/

/-- FAULT_CAUSE holds 0, 4 or 5, and the fault registers and CTRL agree (10_state R21, R25, 60_exceptions R146). -/
abbrev faultRegistersLegal (s : State) : Prop :=
  (s.fault = 0 ∧ s.faultCause = 0 ∧ s.faultInfo = 0) ∨
  (s.fault = 1 ∧ (s.faultCause = 4 ∨ s.faultCause = 5) ∧ s.ctrl = .idle)

/-- Every request asked for 1 to 8 bytes (20_memory R43). -/
abbrev requestsLegal (s : State) : Prop := ∀ k ∈ s.requests, 1 ≤ k ∧ k ≤ 8

/-- At a command boundary: at most 7 residue bits, no command and no request (10_state R26, R32, R35). -/
abbrev boundaryLegal (s : State) : Prop :=
  s.ctrl = .idle → s.rcnt.toNat ≤ 7 ∧ s.request = none ∧ s.cur = none

/-- The loop of an executing ReadCore: REM ≤ N ≤ 64 and VAL < 2^(N−REM) (41_read R90, R101). -/
abbrev loopLegal (s : State) : Prop :=
  s.work.rem.toNat ≤ s.work.n.toNat ∧ s.work.n.toNat ≤ 64 ∧
  s.work.val.toNat < 2 ^ (s.work.n.toNat - s.work.rem.toNat)

/-- The element that a batch is processing agrees with K, IDX, N, CONSUMED and RESULTS (42_read_fields R120 to R125). -/
abbrev elementLegal (es : List CmdWord) (s : State) : Prop :=
  es.length ≤ Config.maxCount ∧ s.work.k = BitVec.ofNat 14 es.length ∧ 1 ≤ s.work.idx.toNat ∧
  (es[s.work.idx.toNat - 1]?).bind decodeElement = some s.work.n ∧
  s.work.results.length + 1 = s.work.idx.toNat ∧ s.work.consumed ≤ 64 * s.work.results.length

/-- The command that waits for the source agrees with the working registers. -/
def waitingCommandLegal (s : State) : Prop :=
  match s.cur with
  | some (.read w) => w = s.work.n
  | some (.fields es) => elementLegal es s
  | some .init => False
  | none => False

/-- While the core waits: the residue is empty, one request of ceil(REM/8) bytes is outstanding, 1 ≤ REM ≤ N ≤ 64 and
VAL < 2^(N−REM) (20_memory R41, 41_read R91, R92, R101). -/
def waitLegal (s : State) : Prop :=
  s.ctrl = .waitSrc →
    s.rcnt = 0 ∧ s.source = .external ∧ 1 ≤ s.work.rem.toNat ∧ s.request = some ((s.work.rem.toNat + 7) / 8) ∧
    loopLegal s ∧ waitingCommandLegal s

/-- A batch before its first element (42_read_fields R120). -/
abbrev batchStartLegal (es : List CmdWord) (s : State) : Prop :=
  es.length ≤ Config.maxCount ∧ s.work.k = BitVec.ofNat 14 es.length ∧ s.work.idx = 0 ∧ s.work.results = [] ∧
  s.work.consumed = 0 ∧ s.rcnt.toNat ≤ 7

/-- The residue between two turns of the loop: no more than the missing bits and 7, so at most 7 bits are left at the end of
the field (10_state R32). -/
abbrev residueLegal (s : State) : Prop := s.rcnt.toNat ≤ s.work.rem.toNat + 7 ∧ s.rcnt.toNat ≤ 64

/-- The command that executes without waiting agrees with the working registers. -/
def executingCommandLegal (s : State) : Prop :=
  match s.cur with
  | some (.read w) => w = s.work.n ∧ loopLegal s ∧ residueLegal s
  | some (.fields es) => batchStartLegal es s ∨ (elementLegal es s ∧ loopLegal s ∧ residueLegal s)
  | some .init => s.rcnt.toNat ≤ 7
  | none => False

/-- While a command executes without waiting, no request is outstanding (10_state R26, 20_memory R41). -/
def busyLegal (s : State) : Prop := s.ctrl = .busy → s.request = none ∧ executingCommandLegal s

/-- The invariant between steps (10_state R21, R26, R32). -/
structure Inv (s : State) : Prop where
  faults : faultRegistersLegal s
  requests : requestsLegal s
  boundary : boundaryLegal s
  wait : waitLegal s
  busy : busyLegal s

/-! ## What must not be observable -/

/-- The state with the stale bits ACC[63:RCNT] put to zero (10_state R24). -/
def dropStale (s : State) : State := { s with acc := BitVec.ofNat 64 (s.acc.toNat % 2 ^ s.rcnt.toNat) }

/-- An outcome with the stale bits of its next state put to zero. -/
def dropStaleResult : Result → Result
  | .next s => .next (dropStale s)
  | .fault f => .fault f
  | .refused r => .refused r

/-- Rename the source's error codes in a response of the source. -/
def renameAnswer (g : Config.SrcErr → Config.SrcErr) : SrcResponse → SrcResponse
  | .ok bytes => .ok bytes
  | .eofZero => .eofZero
  | .eofPartial j => .eofPartial j
  | .ioError e => .ioError (g e)

/-- Rename the error codes in a move. -/
def renameEvent (g : Config.SrcErr → Config.SrcErr) : EnvEvent → EnvEvent
  | .command ws => .command ws
  | .commandHeld ws => .commandHeld ws
  | .answer r => .answer (renameAnswer g r)
  | .answerHeld r => .answerHeld (renameAnswer g r)
  | .turn => .turn
  | .abandonedAnswer r => .abandonedAnswer (renameAnswer g r)
  | .reset => .reset
  | .readStatus => .readStatus
  | .bind src => .bind src
  | .foreignConsume => .foreignConsume

/-- Rename the error codes wherever a state holds one: in the moves to come and in the responses given. -/
def renameState (g : Config.SrcErr → Config.SrcErr) (s : State) : State :=
  { s with env := s.env.map (renameEvent g)
           responses := s.responses.map fun r => { r with srcerr := r.srcerr.map g } }

/-- Rename the error codes in an outcome. -/
def renameResult (g : Config.SrcErr → Config.SrcErr) : Result → Result
  | .next s => .next (renameState g s)
  | .fault f => .fault f
  | .refused r => .refused r

/-- The status and code that a READ with r0 residue bits on entry ends with after a failed refill (41_read R94, R95). -/
def failureOf (r0 : Nat) : SrcResponse → Option (Status × Option Config.SrcErr)
  | .ok _ => none
  | .eofZero => some (if r0 = 0 then .cleanEos else .truncated, none)
  | .eofPartial _ => some (.truncated, none)
  | .ioError e => some (.sourceError, some e)

end Sys2Proof.Safety
end

