-- ==== Sys2Proof/Certificates/Slice0/Obligations.lean ====
section
/-! DEFINITION. The statements for the provers. -/

open Sys2Proof Sys2Proof.Machine Sys2Proof.Safety

/-! ## Encoding -/

/-- Decode and encode agree: every command that the words can say comes back from its words (30_encoding R61 to R65). -/
def Obligations.DecodeOfEncodeIsTheCommand : Prop :=
  ∀ i : Instr, i.wellFormed = true → decode (encode i) = .instr i

/-- A transaction that decodes to a command is that command's encoding: no command has two (30_encoding R60 to R67). -/
def Obligations.EncodeOfDecodeIsTheTransaction : Prop :=
  ∀ (ws : List CmdWord) (i : Instr), decode ws = .instr i → encode i = ws ∧ i.wellFormed = true

/-- The opcode map of 30_encoding R66, by match and mask, the reserved opcode and the element words included. -/
def Obligations.WordsDecodeByMatchAndMask : Prop :=
  ∀ w : CmdWord,
    (w &&& 0xFF80#16 = 0x0000#16 → decode [w] = .instr (.read (w.setWidth 7))) ∧
    (w &&& 0xC000#16 = 0x4000#16 → ∀ es : List CmdWord, es.length = w.toNat % 2 ^ 14 → decode (w :: es) = .instr (.fields es)) ∧
    (w &&& 0xFFFF#16 = 0x8000#16 → decode [w] = .instr .init) ∧
    (w &&& 0xC000#16 = 0xC000#16 → decode [w] = .rejected (.reservedOpcode w)) ∧
    (w &&& 0xFF80#16 = 0x0000#16 → decodeElement w = some (w.setWidth 7))

/-- The words of 30_encoding R67, cases 1 to 4, are the illegal ones, and no other is. -/
def Obligations.IllegalWordsAreTheReservedOnes : Prop :=
  ∀ w : CmdWord,
    ((∃ e, decode [w] = .rejected e ∧ illegalWord e = some w) ↔
      (w &&& 0xC000#16 = 0xC000#16 ∨ (w &&& 0xC000#16 = 0x0000#16 ∧ w &&& 0x3F80#16 ≠ 0x0000#16) ∨
        (w &&& 0xC000#16 = 0x8000#16 ∧ w &&& 0x3FFF#16 ≠ 0x0000#16))) ∧
    (decodeElement w = none ↔ (w &&& 0xC000#16 ≠ 0x0000#16 ∨ w &&& 0x3F80#16 ≠ 0x0000#16))

/-- A few words of each format, from the vectors V-R3, V-F2, V-I1, V-X3, V-X4 of 95_test_vectors. -/
def Obligations.SampleWordsDecode : Prop :=
  decode [0x0021#16] = .instr (.read 33) ∧
  decode [0x4002#16, 0x0021#16, 0x001F#16] = .instr (.fields [0x0021#16, 0x001F#16]) ∧
  decode [0x8000#16] = .instr .init ∧
  decode [0xC000#16] = .rejected (.reservedOpcode 0xC000#16) ∧
  decode [0x00C1#16] = .rejected (.reservedBitsSet 0x00C1#16)

/-- The assembly syntax of 30_encoding R71: each line in range gives the words of its row, which decode to its command. -/
def Obligations.AssembledLinesDecodeToTheirCommands : Prop :=
  (∀ n : Nat, n ≤ 127 → assemble (.read n) = some [BitVec.ofNat 16 n] ∧
    decode [BitVec.ofNat 16 n] = .instr (.read (BitVec.ofNat 7 n))) ∧
  (∀ n : Nat, 127 < n → assemble (.read n) = none) ∧
  (∀ ns : List Nat, ns.length ≤ 16383 → (∀ n ∈ ns, n ≤ 127) →
    assemble (.fields ns) = some (BitVec.ofNat 16 (0x4000 + ns.length) :: ns.map (BitVec.ofNat 16)) ∧
    decode (BitVec.ofNat 16 (0x4000 + ns.length) :: ns.map (BitVec.ofNat 16)) =
      .instr (.fields (ns.map (BitVec.ofNat 16)))) ∧
  (assemble .init = some [0x8000#16] ∧ decode [0x8000#16] = .instr .init) ∧
  (assemble .nop = some [0x0000#16] ∧ decode [0x0000#16] = .instr Instr.nop)

/-! ## The step -/

/-- A step runs the decoded command: with a transaction as the next move, on a core that is not executing one, step is exec
of the command on the state without that move (20_memory R52). -/
def Obligations.StepRunsTheIssuedCommand : Prop :=
  ∀ (s : State) (ws : List CmdWord) (rest : List EnvEvent) (i : Instr),
    running s = false → s.env = .command ws :: rest → decode ws = .instr i → step s = exec i { s with env := rest }

/-- The word the host's tool places is the command the next step runs (the model's interface, log entry 6). -/
def Obligations.StepRunsThePlacedTableWord : Prop :=
  ∀ (s : State) (nbits w : Nat) (i : Instr), decodeTableWord nbits w = some i →
    step (s.withFetchWord nbits w) = exec i { s with fault := 0, ctrl := .idle }

/-- A command can be left executing, with CTRL = BUSY, for what may come at any time (10_state R26, 70_reset_and_hazards
R170, R171): ReadCore or the batch has been entered, and nothing else has happened. -/
def Obligations.HeldCommandIsLeftExecuting : Prop :=
  ∀ (s : State) (ws : List CmdWord) (rest : List EnvEvent) (i : Instr),
    ready s → s.env = .commandHeld ws :: rest → decode ws = .instr i → (∀ n, i = .read n → n.toNat ≤ 64) →
    ∃ t, step s = .next t ∧ t.ctrl = .busy ∧ t.cur = some i ∧ t.acc = s.acc ∧ t.rcnt = s.rcnt ∧ sameFaults s t ∧
      t.responses = s.responses ∧ t.requests = s.requests ∧ t.request = s.request ∧ t.source = s.source ∧
      t.statusReads = s.statusReads ∧ t.env = rest ∧
      (∀ n, i = .read n → t.work.n = n ∧ t.work.rem = n ∧ t.work.val = 0) ∧
      (∀ es, i = .fields es → t.work.k = BitVec.ofNat 14 es.length ∧ t.work.idx = 0 ∧ t.work.consumed = 0 ∧
        t.work.results = [])

/-- A READ wider than 64 bits is never left executing: it faults at once (41_read R90, 60_exceptions R144). -/
def Obligations.HeldReadAboveSixtyFourFaultsAtOnce : Prop :=
  ∀ (s : State) (n : Width) (rest : List EnvEvent),
    ready s → s.env = .commandHeld [encodeWidth n] :: rest → 64 < n.toNat →
    step s = exec (.read n) { s with env := rest }

/-- An illegal command word raises IllegalCommand at once: the fault registers say so, no response is given, no request is
issued, and ACC and RCNT keep their values (30_encoding R67, 60_exceptions R145, R146). -/
def Obligations.IllegalCommandWordEntersTheFaultedState : Prop :=
  ∀ (s : State) (ws : List CmdWord) (rest : List EnvEvent) (e : DecodeError) (w : CmdWord),
    ready s → (s.env = .command ws :: rest ∨ s.env = .commandHeld ws :: rest) → decode ws = .rejected e →
    illegalWord e = some w →
    ∃ t, step s = .next t ∧ t.fault = 1 ∧ t.faultCause = 5 ∧ t.faultInfo = w ∧ t.ctrl = .idle ∧
      t.acc = s.acc ∧ t.rcnt = s.rcnt ∧ t.responses = s.responses ∧ t.requests = s.requests ∧
      t.statusReads = s.statusReads ∧ t.source = s.source ∧ t.env = rest

/-- The faulted state (60_exceptions R148): no command is accepted, none has an effect or a response, no request is issued,
and the fault registers stay; only hardware reset changes that, and the state is never a good end. -/
def Obligations.FaultedStateIsLeftOnlyByReset : Prop :=
  ∀ s : State, s.fault = 1 →
    (∀ i, exec i s = .next s) ∧
    (∀ ws rest, s.env = .command ws :: rest ∨ s.env = .commandHeld ws :: rest → step s = .next { s with env := rest }) ∧
    (∀ t, step s = .next t → (∃ rest, s.env = .reset :: rest) ∨
      (sameFaults s t ∧ t.responses = s.responses ∧ t.requests = s.requests ∧ t.acc = s.acc ∧ t.rcnt = s.rcnt)) ∧
    (∀ start, runEnd start s = some .faulted)

/-- Hardware reset, at any time, in any state (70_reset_and_hazards R170): the registers it names take the values it names,
no response is given and no request is issued. Nothing is said of ACC and the working registers. -/
def Obligations.ResetAtAnyTimeRestoresTheResetValues : Prop :=
  ∀ (s : State) (rest : List EnvEvent), s.env = .reset :: rest →
    ∃ t, step s = .next t ∧ t.rcnt = 0 ∧ t.fault = 0 ∧ t.faultCause = 0 ∧ t.faultInfo = 0x0000#16 ∧ t.ctrl = .idle ∧
      t.request = none ∧ t.cur = none ∧ t.responses = s.responses ∧ t.requests = s.requests ∧
      t.statusReads = s.statusReads ∧ t.source = s.source ∧ t.env = rest

/-- A reset while a command executes or waits abandons the command and its request, without a response; and the late answer
to an abandoned request changes nothing, whenever it comes: on an idle core, during a later command, or while a later
request is outstanding (70_reset_and_hazards R171). -/
def Obligations.ResetAbandonsTheCommandAndItsRequest : Prop :=
  (∀ (s : State) (rest : List EnvEvent), s.ctrl ≠ .idle → s.env = .reset :: rest →
    ∃ t, step s = .next t ∧ t.ctrl = .idle ∧ t.request = none ∧ t.cur = none ∧ t.rcnt = 0 ∧ t.responses = s.responses ∧
      t.env = rest) ∧
  (∀ (s : State) (r : SrcResponse) (rest : List EnvEvent), s.env = .abandonedAnswer r :: rest →
    step s = .next { s with env := rest })

/-- The values that the spec gives for reset (10_state R35). -/
def Obligations.ResetStateHoldsTheResetValues : Prop :=
  State.reset.rcnt = 0 ∧ State.reset.fault = 0 ∧ State.reset.faultCause = 0 ∧ State.reset.faultInfo = 0x0000#16 ∧
  State.reset.ctrl = .idle ∧ State.reset.ctrl.code = 0 ∧ State.reset.request = none

/-- A read of the status view, at any time, returns FAULT, FAULT_CAUSE and FAULT_INFO and changes nothing else
(20_memory R54). -/
def Obligations.StatusReadReturnsTheFaultRegisters : Prop :=
  ∀ (s : State) (rest : List EnvEvent), s.env = .readStatus :: rest →
    step s = .next { s with
      env := rest, statusReads := s.statusReads ++ [⟨s.fault, s.faultCause, s.faultInfo⟩] }

/-- Binding a source at a command boundary changes nothing in the block (10_state R30). That it can be done between two
commands is the model's choice (log entry 5). -/
def Obligations.BindingChangesOnlyTheSource : Prop :=
  ∀ (s : State) (src : Source) (rest : List EnvEvent), s.ctrl = .idle → s.env = .bind src :: rest →
    step s = .next { s with env := rest, source := src }

/-- While the core waits and no move comes, nothing changes: a hang is no progress (20_memory R41, U8). -/
def Obligations.UnansweredRequestHangs : Prop :=
  ∀ s : State, s.ctrl = .waitSrc → s.env = [] →
    step s = .next s ∧ (s.fault = 0 → ∀ start, runEnd start s = some .waiting)

/-- The moves that the spec puts outside the model stop it by name: a command before the response to the previous one, a
transaction without the words it asks for, another consumer of the source (20_memory R47, R55; U3, U14). -/
def Obligations.BrokenHostDutiesAreRefused : Prop :=
  (∀ (s : State) ws rest, s.fault = 0 → s.ctrl = .waitSrc →
    s.env = .command ws :: rest ∨ s.env = .commandHeld ws :: rest → step s = .refused .commandWhileBusy) ∧
  (∀ (s : State) ws rest, ready s → s.env = .command ws :: rest ∨ s.env = .commandHeld ws :: rest →
    decode ws = .rejected .wrongLength → step s = .refused .incompleteTransaction) ∧
  (∀ (s : State) src rest, s.ctrl = .waitSrc → s.env = .bind src :: rest → step s = .refused .bindWhileBusy) ∧
  (∀ (s : State) rest, running s = false → s.env = .foreignConsume :: rest → step s = .refused .sharedSource)

/-- An answer without a request, and an answer that is none of those of 20_memory R42, stop the machine by name (the
model's choice, log entry 12). -/
def Obligations.BrokenSourceProtocolIsAFault : Prop :=
  (∀ (s : State) r rest, ready s → s.env = .answer r :: rest ∨ s.env = .answerHeld r :: rest →
    step s = .fault .unsolicitedAnswer) ∧
  (∀ (s : State) r rest k, s.fault = 0 → s.ctrl = .waitSrc → s.request = some k →
    s.env = .answer r :: rest ∨ s.env = .answerHeld r :: rest → r.fits k = false → step s = .fault .malformedAnswer)

/-- The reference source's three answers (20_memory R57), each of which is one that R42 allows. -/
def Obligations.ReferenceSourceAnswersEveryRequest : Prop :=
  ∀ (k : Nat) (held : List Byte), 1 ≤ k →
    (k ≤ held.length → referenceAnswer k held = (.ok (held.take k), held.drop k)) ∧
    (held = [] → referenceAnswer k held = (.eofZero, [])) ∧
    (0 < held.length → held.length < k → referenceAnswer k held = (.eofPartial held.length, [])) ∧
    (referenceAnswer k held).1.fits k = true

/-- The condition codes (60_exceptions R140). -/
def Obligations.OutcomeCodesAreThoseOfTheTable : Prop :=
  Status.ok.code = 0 ∧ Status.cleanEos.code = 1 ∧ Status.truncated.code = 2 ∧ Status.sourceError.code = 3 ∧
  FatalCause.contractViolation.code = 4 ∧ FatalCause.illegalCommand.code = 5

/-! ## INIT -/

/-- INIT empties the residue, leaves ACC, issues no request and responds (OK, 0) (40_init R80). -/
def Obligations.InitEmptiesTheResidueAndRespondsOk : Prop :=
  ∀ s : State, ready s →
    ∃ t, exec .init s = .next t ∧ t.rcnt = 0 ∧ t.acc = s.acc ∧
      t.responses = s.responses ++ [valueResponse .ok 0 none] ∧ endsWell s t ∧ sameSourceSide s t

/-- INIT in the middle of a stream (40_init R81): the residue is lost and the next field starts at the next source byte;
INIT twice is INIT once; and the first READ of 1 to 64 bits after it issues exactly one request, of ceil(n/8) bytes. -/
def Obligations.InitDiscardsTheResidue : Prop :=
  ∀ s t : State, ready s → exec .init s = .next t →
    (∀ S p, standsAt S p s → standsAt S (p + s.rcnt.toNat) t) ∧
    (∃ u, exec .init t = .next u ∧ u.rcnt = t.rcnt ∧ u.acc = t.acc ∧ endsWell t u ∧ sameSourceSide t u) ∧
    (∀ (n : Width) (u : State), 1 ≤ n.toNat → n.toNat ≤ 64 → exec (.read n) t = .next u →
      u.requests = s.requests ++ [(n.toNat + 7) / 8]) ∧
    (∀ (n : Width) (rest : List CmdWord) (u : State), 1 ≤ n.toNat → n.toNat ≤ 64 →
      exec (.fields (encodeWidth n :: rest)) t = .next u →
      ∃ more, u.requests = s.requests ++ (n.toNat + 7) / 8 :: more)

/-! ## READ -/

/-- READ 0 responds (OK, 0) and touches neither ACC nor RCNT nor the source, whatever these are (41_read R111). -/
def Obligations.ReadOfWidthZeroIsANoOp : Prop :=
  ∀ s : State, ready s →
    ∃ t, exec (.read 0) s = .next t ∧ t.responses = s.responses ++ [valueResponse .ok 0 none] ∧
      t.acc = s.acc ∧ t.rcnt = s.rcnt ∧ endsWell s t ∧ sameSourceSide s t

/-- A READ that the residue can serve: the value is ACC[RCNT−1 : RCNT−n], RCNT goes down by n, ACC is not written and no
request is issued (41_read R96, R99, R103). -/
def Obligations.ReadServedByTheResidue : Prop :=
  ∀ (s : State) (n : Width), ready s → n.toNat ≤ 64 → n.toNat ≤ s.rcnt.toNat →
    ∃ t, exec (.read n) s = .next t ∧
      t.responses = s.responses ++
        [valueResponse .ok (BitVec.ofNat 64 (s.acc.toNat / 2 ^ (s.rcnt.toNat - n.toNat) % 2 ^ n.toNat)) none] ∧
      t.rcnt.toNat = s.rcnt.toNat - n.toNat ∧ t.acc = s.acc ∧ endsWell s t ∧ sameSourceSide s t

/-- A READ that needs a refill and gets its bytes: one request of k = ceil((n − r0)/8) bytes; the value is the r0 residue bits
followed by the first n − r0 bits delivered; ACC holds the delivered bytes and RCNT the 8k − (n − r0) bits left
(41_read R91, R93, R103). -/
def Obligations.ReadServedByARefill : Prop :=
  ∀ (s : State) (n : Width) (bytes : List Byte) (rest : List EnvEvent),
    ready s → n.toNat ≤ 64 → s.rcnt.toNat < n.toNat → s.source = .external →
    s.env = .answer (.ok bytes) :: rest → bytes.length = (n.toNat - s.rcnt.toNat + 7) / 8 →
    ∃ t, exec (.read n) s = .next t ∧
      t.responses = s.responses ++ [valueResponse .ok (BitVec.ofNat 64
        (s.acc.toNat % 2 ^ s.rcnt.toNat * 2 ^ (n.toNat - s.rcnt.toNat) + fieldAt bytes 0 (n.toNat - s.rcnt.toNat))) none] ∧
      t.acc.toNat = fieldAt bytes 0 (8 * bytes.length) ∧
      t.rcnt.toNat = 8 * bytes.length - (n.toNat - s.rcnt.toNat) ∧ t.rcnt.toNat ≤ 7 ∧
      t.requests = s.requests ++ [bytes.length] ∧ t.request = none ∧ t.source = .external ∧ t.env = rest ∧ endsWell s t

/-- A READ whose refill fails: CLEAN_EOS exactly when the residue was empty on entry and the source had nothing, else
TRUNCATED, or SOURCE_ERROR with the source's code unchanged; the value is 0, the residue is lost, ACC is not written
(41_read R94, R95, R106). -/
def Obligations.ReadEndsOnAFailedRefill : Prop :=
  ∀ (s : State) (n : Width) (r : SrcResponse) (rest : List EnvEvent) (st : Status) (e : Option Config.SrcErr),
    ready s → n.toNat ≤ 64 → s.rcnt.toNat < n.toNat → s.source = .external → s.env = .answer r :: rest →
    r.fits ((n.toNat - s.rcnt.toNat + 7) / 8) = true → failureOf s.rcnt.toNat r = some (st, e) →
    ∃ t, exec (.read n) s = .next t ∧ t.responses = s.responses ++ [valueResponse st 0 e] ∧
      t.rcnt = 0 ∧ t.acc = s.acc ∧ t.requests = s.requests ++ [(n.toNat - s.rcnt.toNat + 7) / 8] ∧ t.request = none ∧
      t.source = .external ∧ t.env = rest ∧ endsWell s t

/-- A READ that needs a refill which is not answered yet: CTRL = WAIT_SRC, one request outstanding, no response
(20_memory R41). -/
def Obligations.ReadWaitsForTheSource : Prop :=
  ∀ (s : State) (n : Width), ready s → n.toNat ≤ 64 → s.rcnt.toNat < n.toNat → s.source = .external →
    (∀ r rest, s.env ≠ .answer r :: rest) →
    ∃ t, exec (.read n) s = .next t ∧ t.ctrl = .waitSrc ∧
      t.request = some ((n.toNat - s.rcnt.toNat + 7) / 8) ∧
      t.requests = s.requests ++ [(n.toNat - s.rcnt.toNat + 7) / 8] ∧ t.responses = s.responses ∧
      t.rcnt = 0 ∧ t.acc = s.acc ∧ t.work.n = n ∧ t.work.rem.toNat = n.toNat - s.rcnt.toNat ∧
      t.source = .external ∧ t.env = s.env ∧ sameFaults s t ∧ t.statusReads = s.statusReads

/-- A width above 64 raises ContractViolation before any request and before any write of ACC or RCNT, and gives no response
(41_read R90, 60_exceptions R144, R146). -/
def Obligations.ReadAboveSixtyFourEntersTheFaultedState : Prop :=
  ∀ (s : State) (n : Width), ready s → 64 < n.toNat →
    ∃ t, exec (.read n) s = .next t ∧ t.fault = 1 ∧ t.faultCause = 4 ∧ t.faultInfo = encodeWidth n ∧
      (encodeWidth n).toNat = n.toNat ∧ t.ctrl = .idle ∧ t.acc = s.acc ∧ t.rcnt = s.rcnt ∧
      t.responses = s.responses ∧ t.statusReads = s.statusReads ∧ sameSourceSide s t

/-- A READ on a reference source that has the bits returns the field of n bits at the block's place in the stream and moves
on by n (41_read R104, 00_scope R11, 10_state R22, R34). -/
def Obligations.ReadDeliversTheFieldOfTheStream : Prop :=
  ∀ (S : List Byte) (p : Nat) (s : State) (n : Width),
    ready s → standsAt S p s → n.toNat ≤ 64 → p + n.toNat ≤ 8 * S.length →
    ∃ t, exec (.read n) s = .next t ∧
      t.responses = s.responses ++ [valueResponse .ok (BitVec.ofNat 64 (fieldAt S p n.toNat)) none] ∧
      standsAt S (p + n.toNat) t ∧ (s.rcnt.toNat ≤ 7 → t.rcnt.toNat ≤ 7) ∧ t.env = s.env ∧ endsWell s t

/-- A READ of more bits than the reference source has left: CLEAN_EOS exactly at the end of the stream, else TRUNCATED; the
source is exhausted after it (41_read R95, R106, R112). -/
def Obligations.ReadPastTheEndOfTheStream : Prop :=
  ∀ (S : List Byte) (p : Nat) (s : State) (n : Width),
    ready s → standsAt S p s → n.toNat ≤ 64 → 8 * S.length < p + n.toNat →
    ∃ t, exec (.read n) s = .next t ∧
      t.responses = s.responses ++ [valueResponse (if p = 8 * S.length then .cleanEos else .truncated) 0 none] ∧
      t.rcnt = 0 ∧ t.acc = s.acc ∧ t.source = .reference [] ∧ (∃ k, t.requests = s.requests ++ [k]) ∧
      t.env = s.env ∧ endsWell s t

/-- READs one after another give the stream back: each its field, and the values put together, each at its own width, are
the bits of the stream (41_read R104). -/
def Obligations.ReadsReproduceTheStream : Prop :=
  ∀ (S : List Byte) (p : Nat) (s : State) (ns : List Width),
    ready s → standsAt S p s → (∀ n ∈ ns, n.toNat ≤ 64) → p + (ns.map BitVec.toNat).sum ≤ 8 * S.length →
    ∃ (t : State) (vs : List Word64), runCommands (ns.map .read) s = .next t ∧
      t.responses = s.responses ++ vs.map (fun v => valueResponse .ok v none) ∧
      vs.map BitVec.toNat = fieldsAt S p (ns.map BitVec.toNat) ∧
      (ns.zip vs).foldl (fun a nv => a * 2 ^ nv.1.toNat + nv.2.toNat) 0 = fieldAt S p (ns.map BitVec.toNat).sum ∧
      standsAt S (p + (ns.map BitVec.toNat).sum) t

/-- The fold keeps VAL < 2^(N − REM) and does not overflow, where that held before it, and the result is right-justified
(after 41_read R101; that VAL < 2^(N − REM) holds before each fold is a hypothesis here). -/
def Obligations.FoldNeverOverflows : Prop :=
  (∀ s : State, s.work.rem.toNat ≤ s.work.n.toNat → s.work.n.toNat ≤ 64 →
    s.work.val.toNat < 2 ^ (s.work.n.toNat - s.work.rem.toNat) →
    let m := min s.rcnt.toNat s.work.rem.toNat
    (takeChunk s).work.val.toNat = fold s.work.val.toNat m (chunk s.acc.toNat s.rcnt.toNat m) ∧
    (takeChunk s).work.val.toNat < 2 ^ (s.work.n.toNat - s.work.rem.toNat + m) ∧
    (takeChunk s).work.n.toNat - (takeChunk s).work.rem.toNat = s.work.n.toNat - s.work.rem.toNat + m ∧
    (m = 64 → s.work.val = 0 ∧ s.work.n.toNat = 64)) ∧
  (∀ (w : CmdWord) (n : Width) (s t : State) (st : Status) (v : Word64) (e : Option Config.SrcErr),
    readCore w n s = .done st v e t → v.toNat < 2 ^ n.toNat ∧ n.toNat ≤ 64)

/-- The state after a ReadCore that did not return OK (41_read R106). -/
def Obligations.FailedReadCoreLosesTheResidue : Prop :=
  ∀ (w : CmdWord) (n : Width) (s t : State) (st : Status) (v : Word64) (e : Option Config.SrcErr),
    readCore w n s = .done st v e t → st ≠ .ok →
    t.rcnt = 0 ∧ t.acc = s.acc ∧ v = 0 ∧ (∀ held, s.source = .reference held → t.source = .reference [])

/-! ## FIELDS -/

/-- FIELDS with no element responds OK with an empty list, issues no request and changes no state (42_read_fields R126). -/
def Obligations.FieldsOfNoElementChangesNothing : Prop :=
  ∀ s : State, ready s →
    ∃ t, exec (.fields []) s = .next t ∧ t.responses = s.responses ++ [listResponse .ok [] none] ∧
      t.acc = s.acc ∧ t.rcnt = s.rcnt ∧ endsWell s t ∧ sameSourceSide s t

/-- A FIELDS whose fields the reference source can serve responds OK with the fields of the stream, in order, and moves on
by their total width (42_read_fields R121, R124, R125). -/
def Obligations.FieldsDeliverTheFieldsOfTheStream : Prop :=
  ∀ (S : List Byte) (p : Nat) (s : State) (ns : List Width),
    ready s → standsAt S p s → (∀ n ∈ ns, n.toNat ≤ 64) → p + (ns.map BitVec.toNat).sum ≤ 8 * S.length →
    ∃ t, exec (.fields (ns.map encodeWidth)) s = .next t ∧
      t.responses = s.responses ++
        [listResponse .ok ((fieldsAt S p (ns.map BitVec.toNat)).map (BitVec.ofNat 64)) none] ∧
      standsAt S (p + (ns.map BitVec.toNat).sum) t ∧ (s.rcnt.toNat ≤ 7 → t.rcnt.toNat ≤ 7) ∧ t.env = s.env ∧ endsWell s t

/-- A FIELDS that the reference source cannot serve to its end: CLEAN_EOS exactly when the batch began at the end of the
stream, so that no bit was consumed, else TRUNCATED; no value is returned; the elements after the failing one are not
looked at, legal or not (42_read_fields R123, R124; C2). -/
def Obligations.FieldsPastTheEndOfTheStream : Prop :=
  ∀ (S : List Byte) (p : Nat) (s : State) (ns : List Width) (after : List CmdWord),
    ready s → standsAt S p s → (∀ n ∈ ns, n.toNat ≤ 64) → 8 * S.length < p + (ns.map BitVec.toNat).sum →
    ∃ t, exec (.fields (ns.map encodeWidth ++ after)) s = .next t ∧
      t.responses = s.responses ++ [listResponse (if p = 8 * S.length then .cleanEos else .truncated) [] none] ∧
      t.rcnt = 0 ∧ t.source = .reference [] ∧ t.env = s.env ∧ endsWell s t

/-- An illegal element word, or a width above 64, faults when it is reached: the elements before it have run, the word is in
FAULT_INFO, and no response is given (42_read_fields R122, 60_exceptions R146). -/
def Obligations.FieldsFaultAtTheElementReached : Prop :=
  ∀ (S : List Byte) (p : Nat) (s : State) (ns : List Width) (w : CmdWord) (after : List CmdWord),
    ready s → standsAt S p s → (∀ n ∈ ns, n.toNat ≤ 64) → p + (ns.map BitVec.toNat).sum ≤ 8 * S.length →
    (∀ n, decodeElement w = some n → 64 < n.toNat) →
    ∃ t, exec (.fields (ns.map encodeWidth ++ w :: after)) s = .next t ∧
      t.fault = 1 ∧ t.faultCause = (if decodeElement w = none then 5 else 4) ∧ t.faultInfo = w ∧ t.ctrl = .idle ∧
      t.responses = s.responses ∧ t.statusReads = s.statusReads ∧ t.env = s.env ∧
      standsAt S (p + (ns.map BitVec.toNat).sum) t

/-- FIELDS whose READs would all respond OK, one after another, on any source: it completes, with their values in one list
and their requests, ACC and RCNT (42_read_fields R121, R127). -/
def Obligations.FieldsCompleteAsTheirReads : Prop :=
  ∀ (ns : List Width) (s u : State) (vs : List Word64),
    ready s → runCommands (ns.map .read) s = .next u → respondedOk s u vs → vs.length = ns.length →
    ∃ t, exec (.fields (ns.map encodeWidth)) s = .next t ∧ t.responses = s.responses ++ [listResponse .ok vs none] ∧
      sameStream u t ∧ endsWell s t

/-- FIELDS that reaches an illegal element word, or a width above 64, on any source: the READs of the elements before it
have had their effect, the fault registers are those of the word, and no response is given (42_read_fields R122, 60_exceptions
R144 to R146). -/
def Obligations.FieldsFaultAfterTheirReads : Prop :=
  ∀ (ns : List Width) (w : CmdWord) (after : List CmdWord) (s u : State) (vs : List Word64),
    ready s → runCommands (ns.map .read) s = .next u → respondedOk s u vs → vs.length = ns.length →
    (∀ n, decodeElement w = some n → 64 < n.toNat) →
    ∃ t, exec (.fields (ns.map encodeWidth ++ w :: after)) s = .next t ∧
      t.fault = 1 ∧ t.faultCause = (if decodeElement w = none then 5 else 4) ∧ t.faultInfo = w ∧ t.ctrl = .idle ∧
      t.cur = none ∧ t.responses = s.responses ∧ t.statusReads = s.statusReads ∧ sameStream u t

/-- FIELDS with an element that fails, on any source: the batch ends there with the READ's status, but with TRUNCATED in place
of CLEAN_EOS if bits were delivered before, with the source's code and no values (42_read_fields R123, R124, R127). -/
def Obligations.FieldsFailAfterTheirReads : Prop :=
  ∀ (ns : List Width) (n : Width) (after : List CmdWord) (s u z : State) (vs : List Word64) (st : Status)
    (e : Option Config.SrcErr),
    ready s → runCommands (ns.map .read) s = .next u → respondedOk s u vs → vs.length = ns.length →
    exec (.read n) u = .next z → z.responses = u.responses ++ [valueResponse st 0 e] → st ≠ .ok →
    ∃ t, exec (.fields (ns.map encodeWidth ++ encodeWidth n :: after)) s = .next t ∧
      t.responses = s.responses ++
        [listResponse (if st = .cleanEos ∧ 0 < (ns.map BitVec.toNat).sum then .truncated else st) [] e] ∧
      sameStream z t ∧ endsWell s t

/-- FIELDS with an element that has to wait, on any source: it waits as the READ does, and holds what the elements before it
have delivered (20_memory R41, 42_read_fields R121, R125). -/
def Obligations.FieldsWaitAsTheirReads : Prop :=
  ∀ (ns : List Width) (n : Width) (after : List CmdWord) (s u z : State) (vs : List Word64),
    (Instr.fields (ns.map encodeWidth ++ encodeWidth n :: after)).wellFormed = true →
    ready s → runCommands (ns.map .read) s = .next u → respondedOk s u vs → vs.length = ns.length →
    exec (.read n) u = .next z → z.ctrl = .waitSrc →
    ∃ t, exec (.fields (ns.map encodeWidth ++ encodeWidth n :: after)) s = .next t ∧ t.ctrl = .waitSrc ∧
      t.request = z.request ∧ sameStream z t ∧ t.responses = s.responses ∧ sameFaults s t ∧
      t.statusReads = s.statusReads ∧ t.work.n = n ∧ t.work.rem = z.work.rem ∧ t.work.val = z.work.val ∧
      t.work.results = vs ∧ t.work.consumed = (ns.map BitVec.toNat).sum ∧ t.work.idx.toNat = ns.length + 1

/-- A FIELDS that responds OK has the effect of its READs one after another: the same requests, values, ACC and RCNT
(42_read_fields R127). -/
def Obligations.FieldsEqualTheirReads : Prop :=
  ∀ (es : List CmdWord) (s t : State) (vs : List Word64),
    ready s → exec (.fields es) s = .next t → t.responses = s.responses ++ [listResponse .ok vs none] →
    ∃ (ns : List Width) (u : State), es = ns.map encodeWidth ∧ runCommands (ns.map .read) s = .next u ∧
      u.responses = s.responses ++ vs.map (fun v => valueResponse .ok v none) ∧
      u.requests = t.requests ∧ u.acc = t.acc ∧ u.rcnt = t.rcnt ∧ u.source = t.source ∧ u.env = t.env ∧ sameFaults t u

/-! ## All commands -/

/-- Every command on a reference source ends: CTRL = IDLE, and one response or a fatal fault (20_memory R53,
70_reset_and_hazards R178). -/
def Obligations.CommandsEndOnAReferenceSource : Prop :=
  ∀ (i : Instr) (s : State) (held : List Byte), ready s → s.source = .reference held →
    ∃ t, exec i s = .next t ∧ t.ctrl = .idle ∧ t.env = s.env ∧
      ((t.fault = 0 ∧ ∃ r, t.responses = s.responses ++ [r]) ∨ (t.fault = 1 ∧ t.responses = s.responses))

/-- What a command may issue: requests of 1 to 8 bytes, at most one for a READ, one for an element of FIELDS, none for INIT
(20_memory R43, 41_read R103, 70_reset_and_hazards R178). -/
def Obligations.CommandsIssueFewSmallRequests : Prop :=
  ∀ (i : Instr) (s t : State), ready s → exec i s = .next t →
    ∃ ks, t.requests = s.requests ++ ks ∧ (∀ k ∈ ks, 1 ≤ k ∧ k ≤ 8) ∧
      ks.length ≤ (match i with | .read _ => 1 | .fields es => es.length | .init => 0)

/-- What no command touches: the record of status reads; the responses but for one more; the fault registers but for a
fatal fault, which gives no response; the moves to come but for the answers it takes; the binding, whose reference source
is only read forward (10_state R30, 20_memory R40, R53, 60_exceptions R146). -/
def Obligations.CommandsKeepTheirFrame : Prop :=
  ∀ (i : Instr) (s t : State), exec i s = .next t →
    t.statusReads = s.statusReads ∧
    ((sameFaults s t ∧ (t.responses = s.responses ∨ ∃ r, t.responses = s.responses ++ [r])) ∨
      (s.fault ≠ 1 ∧ t.fault = 1 ∧ (t.faultCause = 4 ∨ t.faultCause = 5) ∧ t.responses = s.responses)) ∧
    (∃ taken : List SrcResponse, s.env = taken.map .answer ++ t.env) ∧
    (s.source = .external → t.source = .external) ∧
    (∀ held, s.source = .reference held → ∃ j, t.source = .reference (held.drop j))

/-- After a response with any status the core is ready again, FAULT is unchanged, and after a status other than OK the
residue is empty (60_exceptions R147). -/
def Obligations.ResponsesLeaveTheCoreReady : Prop :=
  ∀ s t : State, Inv s → step s = .next t → t.responses ≠ s.responses →
    ∃ r, t.responses = s.responses ++ [r] ∧ s.fault = 0 ∧ ready t ∧ sameFaults s t ∧ (r.status ≠ .ok → t.rcnt = 0)

/-- A command that waits ends on a failure answer with the status that the answer, REM, N and, for FIELDS, CONSUMED give;
the source's code is handed on unchanged (41_read R94, R95, 42_read_fields R123, 60_exceptions R141 to R143). -/
def Obligations.WaitingCommandEndsOnAFailure : Prop :=
  ∀ (s : State) (r : SrcResponse) (rest : List EnvEvent) (k : Nat) (st : Status) (e : Option Config.SrcErr),
    Inv s → s.ctrl = .waitSrc → s.env = .answer r :: rest → s.request = some k → r.fits k = true →
    failureOf (s.work.n.toNat - s.work.rem.toNat) r = some (st, e) →
    ∃ t, step s = .next t ∧ ready t ∧ t.rcnt = 0 ∧ t.acc = s.acc ∧ t.env = rest ∧ t.requests = s.requests ∧
      (∀ n, s.cur = some (.read n) → t.responses = s.responses ++ [valueResponse st 0 e]) ∧
      (∀ es, s.cur = some (.fields es) → t.responses = s.responses ++
        [listResponse (if st = .cleanEos ∧ 0 < s.work.consumed then .truncated else st) [] e])

/-- Waiting is transparent, at whichever of its requests a command waits: a command that has taken the answers `as`, is left
waiting and then gets its answer, does what it does when that answer is there at once (00_scope R13, 20_memory R41, R49). -/
def Obligations.WaitingIsTransparent : Prop :=
  ∀ (i : Instr) (s t : State) (as : List SrcResponse) (r : SrcResponse) (rest : List EnvEvent),
    i.wellFormed = true → ready s → exec i { s with env := as.map .answer } = .next t → t.ctrl = .waitSrc →
    step { t with env := .answer r :: rest } = exec i { s with env := as.map .answer ++ .answer r :: rest }

/-- Leaving a command executing is transparent: a command that was left at its start and then runs on does what it does at
once; a turn of it and the rest of it are the whole of it; and so are taking an answer and going on (10_state R26, 41_read
R108, 42_read_fields R125). So what comes to an executing core without changing it, a status read, changes no command. -/
def Obligations.ExecutingIsTransparent : Prop :=
  (∀ (s t : State) (ws : List CmdWord) (rest : List EnvEvent) (i : Instr),
    ready s → s.env = .commandHeld ws :: rest → decode ws = .instr i → step s = .next t → t.ctrl = .busy →
    (∀ e more, rest = e :: more → atAnyTime e = false) → step t = exec i { s with env := rest }) ∧
  (∀ (s t : State) (rest : List EnvEvent),
    Inv s → s.ctrl = .busy → s.env = .turn :: rest → step s = .next t →
    if t.ctrl = .busy then runOn t = runOn { s with env := rest } else runOn { s with env := rest } = .next t) ∧
  (∀ (s t : State) (r : SrcResponse) (rest : List EnvEvent),
    Inv s → s.ctrl = .waitSrc → s.env = .answerHeld r :: rest → step s = .next t →
    if t.ctrl = .busy then runOn t = step { s with env := .answer r :: rest }
    else step { s with env := .answer r :: rest } = .next t)

/-- An executing command runs on to the end of its stretch, unless the next move may come at any time (20_memory R52). -/
def Obligations.ExecutingCommandRunsOn : Prop :=
  ∀ s : State, running s = true → (∀ e rest, s.env = e :: rest → atAnyTime e = false) → step s = runOn s

/-! ## Runs -/

/-- A command responds at most once: a step gives a response for one command of those not yet answered, or none; and it loses
one exactly where a faulted core does not accept it, where it faults, or where a reset abandons it. So a run is complete, as
`runEnd` counts, exactly when every command has been accepted and has responded (20_memory R53, 60_exceptions R146, R148,
70_reset_and_hazards R171, R179). -/
def Obligations.EveryCommandRespondsOnceOrIsLost : Prop :=
  ∀ s t : State, Inv s → step s = .next t →
    t.responses.length + unanswered t + (if losesACommand s t then 1 else 0) = s.responses.length + unanswered s

/-- A run of a host's command list, whole transactions and nothing else, on a reference source: after finitely many steps it
has ended, complete or faulted (70_reset_and_hazards R178, R179). That the steps are as many as the commands is the model's
choice (DESIGN CHOICE, log entry 8: one step runs one command, and a bound reference source answers within it), and so is
the count by which `runEnd` finds a run complete (DESIGN CHOICE, log entry 9). -/
def Obligations.CommandListsRunToAnEnd : Prop :=
  ∀ (s : State) (held : List Byte) (wss : List (List CmdWord)),
    ready s → s.cur = none → s.source = .reference held → s.env = wss.map .command →
    (∀ ws ∈ wss, decode ws ≠ .rejected .wrongLength) →
    ∃ t, runSteps wss.length s = .next t ∧
      (runEnd s t = some .complete ∧ t.responses.length = s.responses.length + wss.length ∨
        runEnd s t = some .faulted)

/-! ## Invariants and what is not observable -/

/-- The state after reset satisfies the invariant. -/
def Obligations.ResetStateSatisfiesTheInvariant : Prop := Inv State.reset

/-- Every step keeps the invariant: at a command boundary RCNT ≤ 7, the fault registers hold legal values, every request
asked for 1 to 8 bytes, a waiting core has the one request that REM asks for, and an executing core none (10_state R21, R26,
R32; 20_memory R41, R43). -/
def Obligations.StepKeepsTheInvariant : Prop :=
  ∀ s t : State, Inv s → step s = .next t → Inv t

/-- The stale bits ACC[63:RCNT] are never observed: states that differ only there go the same way (10_state R23, R24). -/
def Obligations.StaleAccumulatorBitsAreNeverObserved : Prop :=
  ∀ s s' : State, dropStale s = dropStale s' → dropStaleResult (step s) = dropStaleResult (step s')

/-- What the working registers hold between commands, a free value, is not observable in the command that follows
(10_state R29; U10). -/
def Obligations.WorkingRegistersAreNotObservable : Prop :=
  ∀ (i : Instr) (s : State) (w : Working) (d : Nat), ready s →
    observeResult (exec i { s with work := w, draws := d }) = observeResult (exec i s)

/-- The source's error codes are copied, never inspected: a step commutes with any renaming of them (20_memory R42,
60_exceptions R143; U6). -/
def Obligations.SourceErrorCodesAreOnlyCopied : Prop :=
  ∀ (g : Config.SrcErr → Config.SrcErr) (s : State), step (renameState g s) = renameResult g (step s)
end

