-- ==== Sys2Proof/Laws/Bits.lean ====
section
/-! SUPPORT. The masking unit and the refill's packing as arithmetic (41_read R93, R96 to R101), and the fields of a stream
(00_scope R11). -/
namespace Sys2Proof.Machine
open Safety

theorem chunk_eq (acc r m : Nat) : chunk acc r m = acc / 2 ^ (r - m) % 2 ^ m := by
  simp [chunk, mask, Nat.and_two_pow_sub_one_eq_mod, Nat.shiftRight_eq_div_pow]

theorem chunk_lt (acc r m : Nat) : chunk acc r m < 2 ^ m := by
  rw [chunk_eq]; exact Nat.mod_lt _ (by positivity)

theorem fold_eq {v m b : Nat} (h : b < 2 ^ m) : fold v m b = v * 2 ^ m + b := by
  rw [fold, ← Nat.shiftLeft_add_eq_or_of_lt h, Nat.shiftLeft_eq]

theorem fold_lt {v m b a : Nat} (hb : b < 2 ^ m) (hv : v < 2 ^ a) : fold v m b < 2 ^ (a + m) := by
  rw [fold_eq hb, pow_add]
  calc v * 2 ^ m + b < v * 2 ^ m + 2 ^ m := by omega
    _ = (v + 1) * 2 ^ m := by ring
    _ ≤ 2 ^ a * 2 ^ m := Nat.mul_le_mul_right _ hv

theorem packBytes_foldl (bs : List Byte) (a : Nat) :
    bs.foldl (fun a b => a * 256 + b.toNat) a = a * 2 ^ (8 * bs.length) + packBytes bs := by
  induction bs generalizing a with
  | nil => simp [packBytes]
  | cons b bs ih =>
    simp only [packBytes, List.foldl_cons, List.length_cons]
    rw [ih, ih (0 * 256 + b.toNat)]
    rw [show 8 * (bs.length + 1) = 8 * bs.length + 8 by ring, pow_add]
    ring

theorem packBytes_cons (b : Byte) (bs : List Byte) :
    packBytes (b :: bs) = b.toNat * 2 ^ (8 * bs.length) + packBytes bs := by
  show List.foldl _ _ bs = _
  rw [packBytes_foldl]; simp

theorem packBytes_lt (bs : List Byte) : packBytes bs < 2 ^ (8 * bs.length) := by
  induction bs with
  | nil => simp [packBytes]
  | cons b bs ih =>
    rw [packBytes_cons, List.length_cons, show 8 * (bs.length + 1) = 8 + 8 * bs.length by ring, pow_add]
    have := b.isLt
    calc _ < b.toNat * 2 ^ (8 * bs.length) + 2 ^ (8 * bs.length) := by omega
      _ = (b.toNat + 1) * 2 ^ (8 * bs.length) := by ring
      _ ≤ 2 ^ 8 * 2 ^ (8 * bs.length) := Nat.mul_le_mul_right _ (by omega)
end Sys2Proof.Machine

namespace Sys2Proof.Safety
open Machine

@[simp] theorem fieldAt_zero (S : List Byte) (p : Nat) : fieldAt S p 0 = 0 := by simp [fieldAt]

theorem streamBit_lt (S : List Byte) (p : Nat) : streamBit S p < 2 := Nat.mod_lt _ (by omega)

theorem fieldAt_succ (S : List Byte) (p n : Nat) : fieldAt S p (n + 1) = 2 * fieldAt S p n + streamBit S (p + n) := by
  unfold fieldAt
  rw [Finset.sum_range_succ, Finset.mul_sum]
  congr 1
  · apply Finset.sum_congr rfl
    intro i hi
    have : i < n := Finset.mem_range.mp hi
    rw [show n + 1 - 1 - i = (n - 1 - i) + 1 by omega, pow_succ]; ring
  · simp

theorem fieldAt_add (S : List Byte) (p a b : Nat) :
    fieldAt S p (a + b) = fieldAt S p a * 2 ^ b + fieldAt S (p + a) b := by
  induction b with
  | zero => simp
  | succ b ih =>
    rw [← Nat.add_assoc, fieldAt_succ, ih, fieldAt_succ, pow_succ, Nat.add_assoc p a b]; ring

theorem fieldAt_lt (S : List Byte) (p n : Nat) : fieldAt S p n < 2 ^ n := by
  induction n with
  | zero => simp
  | succ n ih => rw [fieldAt_succ, pow_succ]; have := streamBit_lt S (p + n); omega

theorem fieldAt_split {S : List Byte} {p m r : Nat} (h : m ≤ r) :
    fieldAt S p r / 2 ^ (r - m) = fieldAt S p m ∧ fieldAt S p r % 2 ^ (r - m) = fieldAt S (p + m) (r - m) := by
  have e := fieldAt_add S p m (r - m)
  rw [Nat.add_sub_cancel' h] at e
  have l := fieldAt_lt S (p + m) (r - m)
  rw [e]
  constructor
  · rw [Nat.mul_comm, Nat.mul_add_div (by positivity), Nat.div_eq_of_lt l]; simp
  · rw [Nat.mul_comm, Nat.mul_add_mod]; exact Nat.mod_eq_of_lt l

theorem fieldAt_byte (S : List Byte) (b : Nat) : fieldAt S (8 * b) 8 = (S.getD b 0).toNat := by
  have key : ∀ x : Byte, (∑ i ∈ Finset.range 8, x.toNat / 2 ^ (7 - i) % 2 * 2 ^ (8 - 1 - i)) = x.toNat := by
    intro x
    simp only [Finset.sum_range_succ, Finset.sum_range_zero]
    have := x.isLt
    norm_num
    omega
  rw [fieldAt, ← key (S.getD b 0)]
  apply Finset.sum_congr rfl
  intro i hi
  have hi : i < 8 := Finset.mem_range.mp hi
  rw [streamBit, show (8 * b + i) / 8 = b by omega, show (8 * b + i) % 8 = i by omega]

theorem fieldAt_bytes (S : List Byte) (b k : Nat) (h : b + k ≤ S.length) :
    fieldAt S (8 * b) (8 * k) = packBytes ((S.drop b).take k) := by
  induction k generalizing b with
  | zero => simp [packBytes]
  | succ k ih =>
    have hb : b < S.length := by omega
    rw [List.drop_eq_getElem_cons hb, List.take_succ_cons, packBytes_cons, ← ih (b + 1) (by omega),
      show 8 * (k + 1) = 8 + 8 * k by ring, fieldAt_add, fieldAt_byte, show 8 * b + 8 = 8 * (b + 1) by ring,
      List.getD_eq_getElem _ _ hb, List.length_take, List.length_drop, min_eq_left (by omega)]

/-- The value of any field is a number, and its own first and last bits are fields. -/
theorem fieldAt_whole (bs : List Byte) : fieldAt bs 0 (8 * bs.length) = packBytes bs := by
  have := fieldAt_bytes bs 0 bs.length (by omega)
  simpa using this
end Sys2Proof.Safety
end

