-- ==== Sys2Proof/Laws/Operands.lean ====
section
/-! SUPPORT. The fields of a command word as arithmetic, and the element words (30_encoding R60 to R66). -/
namespace Sys2Proof.Machine

theorem opField_toNat (w : CmdWord) : (opField w).toNat = w.toNat / 2 ^ 14 := by
  have := w.isLt
  rw [opField, BitVec.extractLsb'_toNat, Nat.shiftRight_eq_div_pow]; omega

theorem rsvField_toNat (w : CmdWord) : (rsvField w).toNat = w.toNat / 2 ^ 7 % 2 ^ 7 := by
  rw [rsvField, BitVec.extractLsb'_toNat, Nat.shiftRight_eq_div_pow]

theorem widthField_toNat (w : CmdWord) : (widthField w).toNat = w.toNat % 2 ^ 7 := by
  rw [widthField, BitVec.extractLsb'_toNat, Nat.shiftRight_zero]

theorem countField_toNat (w : CmdWord) : (countField w).toNat = w.toNat % 2 ^ 14 := by
  rw [countField, BitVec.extractLsb'_toNat, Nat.shiftRight_zero]

theorem zeroField_toNat (w : CmdWord) : (zeroField w).toNat = w.toNat % 2 ^ 14 := by
  rw [zeroField, BitVec.extractLsb'_toNat, Nat.shiftRight_zero]

end Sys2Proof.Machine
namespace Sys2Proof
open Machine

theorem encodeWidth_toNat (n : Width) : (encodeWidth n).toNat = n.toNat := by
  rw [encodeWidth, BitVec.toNat_append]; simp

theorem encodeHeader_toNat (k : BitVec 14) : (encodeHeader k).toNat = 2 ^ 14 + k.toNat := by
  rw [encodeHeader, BitVec.toNat_append, ← Nat.shiftLeft_add_eq_or_of_lt k.isLt, Nat.shiftLeft_eq]; rfl

@[simp] theorem decodeElement_encodeWidth (n : Width) : decodeElement (encodeWidth n) = some n := by
  have := n.isLt
  have h1 : opField (encodeWidth n) = 0 := BitVec.eq_of_toNat_eq (by rw [opField_toNat, encodeWidth_toNat]; simp; omega)
  have h2 : rsvField (encodeWidth n) = 0 := BitVec.eq_of_toNat_eq (by rw [rsvField_toNat, encodeWidth_toNat]; simp; omega)
  have h3 : widthField (encodeWidth n) = n := BitVec.eq_of_toNat_eq (by rw [widthField_toNat, encodeWidth_toNat]; omega)
  rw [decodeElement, if_pos ⟨h1, h2⟩, h3]

/-- An element word that decodes is the word of its width. -/
theorem encodeWidth_of_decodeElement {w : CmdWord} {n : Width} (h : decodeElement w = some n) : w = encodeWidth n := by
  unfold decodeElement at h
  split at h
  · rename_i hc
    obtain ⟨h1, h2⟩ := hc
    have e1 := congrArg BitVec.toNat h1
    have e2 := congrArg BitVec.toNat h2
    rw [opField_toNat] at e1
    rw [rsvField_toNat] at e2
    simp at e1 e2
    cases h
    exact BitVec.eq_of_toNat_eq (by rw [encodeWidth_toNat, widthField_toNat]; omega)
  · cases h
end Sys2Proof
end

