-- ==== Sys2Proof/Laws/PerInstr.lean ====
section
/-! SUPPORT. A statement about every instruction, proved one constructor at a time. -/
namespace Sys2Proof.Laws.EncodedLength

/-- The length of a command's transaction in command words: one word, and for FIELDS its elements after it
(30_encoding R60, R63, R70). -/
def Statement (i : Instr) : Prop :=
  (encode i).length = match i with | .read _ => 1 | .fields elements => 1 + elements.length | .init => 1

end Sys2Proof.Laws.EncodedLength

namespace Sys2Proof.Laws

theorem EncodedLength.read (width : Width) : EncodedLength.Statement (.read width) := rfl

theorem EncodedLength.fields (elements : List CmdWord) : EncodedLength.Statement (.fields elements) := by
  simp [EncodedLength.Statement, encode, Nat.add_comm]

theorem EncodedLength.init : EncodedLength.Statement .init := rfl

end Sys2Proof.Laws
end

