-- ==== Sys2Proof/Laws/State.lean ====
section
/-! SUPPORT. For every update of the state, what each field holds after it. -/
namespace Sys2Proof.Machine

/-! `takeChunk` -/

@[simp] theorem takeChunk_acc (s : State) : (takeChunk s).acc = s.acc := rfl
@[simp] theorem takeChunk_rcnt (s : State) : (takeChunk s).rcnt = BitVec.ofNat 7 (s.rcnt.toNat - min s.rcnt.toNat s.work.rem.toNat) := rfl
@[simp] theorem takeChunk_fault (s : State) : (takeChunk s).fault = s.fault := rfl
@[simp] theorem takeChunk_faultCause (s : State) : (takeChunk s).faultCause = s.faultCause := rfl
@[simp] theorem takeChunk_faultInfo (s : State) : (takeChunk s).faultInfo = s.faultInfo := rfl
@[simp] theorem takeChunk_ctrl (s : State) : (takeChunk s).ctrl = s.ctrl := rfl
@[simp] theorem takeChunk_request (s : State) : (takeChunk s).request = s.request := rfl
@[simp] theorem takeChunk_n (s : State) : (takeChunk s).work.n = s.work.n := rfl
@[simp] theorem takeChunk_rem (s : State) : (takeChunk s).work.rem = BitVec.ofNat 7 (s.work.rem.toNat - min s.rcnt.toNat s.work.rem.toNat) := rfl
@[simp] theorem takeChunk_val (s : State) : (takeChunk s).work.val = BitVec.ofNat 64 (fold s.work.val.toNat (min s.rcnt.toNat s.work.rem.toNat)
      (chunk s.acc.toNat s.rcnt.toNat (min s.rcnt.toNat s.work.rem.toNat))) := rfl
@[simp] theorem takeChunk_k (s : State) : (takeChunk s).work.k = s.work.k := rfl
@[simp] theorem takeChunk_idx (s : State) : (takeChunk s).work.idx = s.work.idx := rfl
@[simp] theorem takeChunk_consumed (s : State) : (takeChunk s).work.consumed = s.work.consumed := rfl
@[simp] theorem takeChunk_results (s : State) : (takeChunk s).work.results = s.work.results := rfl
@[simp] theorem takeChunk_cur (s : State) : (takeChunk s).cur = s.cur := rfl
@[simp] theorem takeChunk_source (s : State) : (takeChunk s).source = s.source := rfl
@[simp] theorem takeChunk_env (s : State) : (takeChunk s).env = s.env := rfl
@[simp] theorem takeChunk_responses (s : State) : (takeChunk s).responses = s.responses := rfl
@[simp] theorem takeChunk_requests (s : State) : (takeChunk s).requests = s.requests := rfl
@[simp] theorem takeChunk_statusReads (s : State) : (takeChunk s).statusReads = s.statusReads := rfl
@[simp] theorem takeChunk_draws (s : State) : (takeChunk s).draws = s.draws := rfl

/-! `refill` -/

@[simp] theorem refill_acc (bs : List Byte) (s : State) : (refill bs s).acc = BitVec.ofNat 64 (packBytes bs) := rfl
@[simp] theorem refill_rcnt (bs : List Byte) (s : State) : (refill bs s).rcnt = BitVec.ofNat 7 (8 * bs.length) := rfl
@[simp] theorem refill_fault (bs : List Byte) (s : State) : (refill bs s).fault = s.fault := rfl
@[simp] theorem refill_faultCause (bs : List Byte) (s : State) : (refill bs s).faultCause = s.faultCause := rfl
@[simp] theorem refill_faultInfo (bs : List Byte) (s : State) : (refill bs s).faultInfo = s.faultInfo := rfl
@[simp] theorem refill_ctrl (bs : List Byte) (s : State) : (refill bs s).ctrl = s.ctrl := rfl
@[simp] theorem refill_request (bs : List Byte) (s : State) : (refill bs s).request = s.request := rfl
@[simp] theorem refill_work (bs : List Byte) (s : State) : (refill bs s).work = s.work := rfl
@[simp] theorem refill_cur (bs : List Byte) (s : State) : (refill bs s).cur = s.cur := rfl
@[simp] theorem refill_source (bs : List Byte) (s : State) : (refill bs s).source = s.source := rfl
@[simp] theorem refill_env (bs : List Byte) (s : State) : (refill bs s).env = s.env := rfl
@[simp] theorem refill_responses (bs : List Byte) (s : State) : (refill bs s).responses = s.responses := rfl
@[simp] theorem refill_requests (bs : List Byte) (s : State) : (refill bs s).requests = s.requests := rfl
@[simp] theorem refill_statusReads (bs : List Byte) (s : State) : (refill bs s).statusReads = s.statusReads := rfl
@[simp] theorem refill_draws (bs : List Byte) (s : State) : (refill bs s).draws = s.draws := rfl

/-! `issueRequest` -/

@[simp] theorem issueRequest_acc (k : Nat) (s : State) : (issueRequest k s).acc = s.acc := rfl
@[simp] theorem issueRequest_rcnt (k : Nat) (s : State) : (issueRequest k s).rcnt = s.rcnt := rfl
@[simp] theorem issueRequest_fault (k : Nat) (s : State) : (issueRequest k s).fault = s.fault := rfl
@[simp] theorem issueRequest_faultCause (k : Nat) (s : State) : (issueRequest k s).faultCause = s.faultCause := rfl
@[simp] theorem issueRequest_faultInfo (k : Nat) (s : State) : (issueRequest k s).faultInfo = s.faultInfo := rfl
@[simp] theorem issueRequest_ctrl (k : Nat) (s : State) : (issueRequest k s).ctrl = .waitSrc := rfl
@[simp] theorem issueRequest_request (k : Nat) (s : State) : (issueRequest k s).request = some k := rfl
@[simp] theorem issueRequest_work (k : Nat) (s : State) : (issueRequest k s).work = s.work := rfl
@[simp] theorem issueRequest_cur (k : Nat) (s : State) : (issueRequest k s).cur = s.cur := rfl
@[simp] theorem issueRequest_source (k : Nat) (s : State) : (issueRequest k s).source = s.source := rfl
@[simp] theorem issueRequest_env (k : Nat) (s : State) : (issueRequest k s).env = s.env := rfl
@[simp] theorem issueRequest_responses (k : Nat) (s : State) : (issueRequest k s).responses = s.responses := rfl
@[simp] theorem issueRequest_requests (k : Nat) (s : State) : (issueRequest k s).requests = s.requests ++ [k] := rfl
@[simp] theorem issueRequest_statusReads (k : Nat) (s : State) : (issueRequest k s).statusReads = s.statusReads := rfl
@[simp] theorem issueRequest_draws (k : Nat) (s : State) : (issueRequest k s).draws = s.draws := rfl

/-! `takeAnswer` -/

@[simp] theorem takeAnswer_acc (s : State) : (takeAnswer s).acc = s.acc := rfl
@[simp] theorem takeAnswer_rcnt (s : State) : (takeAnswer s).rcnt = s.rcnt := rfl
@[simp] theorem takeAnswer_fault (s : State) : (takeAnswer s).fault = s.fault := rfl
@[simp] theorem takeAnswer_faultCause (s : State) : (takeAnswer s).faultCause = s.faultCause := rfl
@[simp] theorem takeAnswer_faultInfo (s : State) : (takeAnswer s).faultInfo = s.faultInfo := rfl
@[simp] theorem takeAnswer_ctrl (s : State) : (takeAnswer s).ctrl = .busy := rfl
@[simp] theorem takeAnswer_request (s : State) : (takeAnswer s).request = none := rfl
@[simp] theorem takeAnswer_work (s : State) : (takeAnswer s).work = s.work := rfl
@[simp] theorem takeAnswer_cur (s : State) : (takeAnswer s).cur = s.cur := rfl
@[simp] theorem takeAnswer_source (s : State) : (takeAnswer s).source = s.source := rfl
@[simp] theorem takeAnswer_env (s : State) : (takeAnswer s).env = s.env := rfl
@[simp] theorem takeAnswer_responses (s : State) : (takeAnswer s).responses = s.responses := rfl
@[simp] theorem takeAnswer_requests (s : State) : (takeAnswer s).requests = s.requests := rfl
@[simp] theorem takeAnswer_statusReads (s : State) : (takeAnswer s).statusReads = s.statusReads := rfl
@[simp] theorem takeAnswer_draws (s : State) : (takeAnswer s).draws = s.draws := rfl

/-! `begin` -/

@[simp] theorem begin_acc (i : Instr) (s : State) : (begin i s).acc = s.acc := rfl
@[simp] theorem begin_rcnt (i : Instr) (s : State) : (begin i s).rcnt = s.rcnt := rfl
@[simp] theorem begin_fault (i : Instr) (s : State) : (begin i s).fault = s.fault := rfl
@[simp] theorem begin_faultCause (i : Instr) (s : State) : (begin i s).faultCause = s.faultCause := rfl
@[simp] theorem begin_faultInfo (i : Instr) (s : State) : (begin i s).faultInfo = s.faultInfo := rfl
@[simp] theorem begin_ctrl (i : Instr) (s : State) : (begin i s).ctrl = .busy := rfl
@[simp] theorem begin_request (i : Instr) (s : State) : (begin i s).request = s.request := rfl
@[simp] theorem begin_work (i : Instr) (s : State) : (begin i s).work = s.work := rfl
@[simp] theorem begin_cur (i : Instr) (s : State) : (begin i s).cur = some i := rfl
@[simp] theorem begin_source (i : Instr) (s : State) : (begin i s).source = s.source := rfl
@[simp] theorem begin_env (i : Instr) (s : State) : (begin i s).env = s.env := rfl
@[simp] theorem begin_responses (i : Instr) (s : State) : (begin i s).responses = s.responses := rfl
@[simp] theorem begin_requests (i : Instr) (s : State) : (begin i s).requests = s.requests := rfl
@[simp] theorem begin_statusReads (i : Instr) (s : State) : (begin i s).statusReads = s.statusReads := rfl
@[simp] theorem begin_draws (i : Instr) (s : State) : (begin i s).draws = s.draws := rfl

/-! `endCommand` -/

@[simp] theorem endCommand_acc (s : State) : (endCommand s).acc = s.acc := rfl
@[simp] theorem endCommand_rcnt (s : State) : (endCommand s).rcnt = s.rcnt := rfl
@[simp] theorem endCommand_fault (s : State) : (endCommand s).fault = s.fault := rfl
@[simp] theorem endCommand_faultCause (s : State) : (endCommand s).faultCause = s.faultCause := rfl
@[simp] theorem endCommand_faultInfo (s : State) : (endCommand s).faultInfo = s.faultInfo := rfl
@[simp] theorem endCommand_ctrl (s : State) : (endCommand s).ctrl = .idle := rfl
@[simp] theorem endCommand_request (s : State) : (endCommand s).request = s.request := rfl
@[simp] theorem endCommand_work (s : State) : (endCommand s).work = Working.free s.draws := rfl
@[simp] theorem endCommand_cur (s : State) : (endCommand s).cur = none := rfl
@[simp] theorem endCommand_source (s : State) : (endCommand s).source = s.source := rfl
@[simp] theorem endCommand_env (s : State) : (endCommand s).env = s.env := rfl
@[simp] theorem endCommand_responses (s : State) : (endCommand s).responses = s.responses := rfl
@[simp] theorem endCommand_requests (s : State) : (endCommand s).requests = s.requests := rfl
@[simp] theorem endCommand_statusReads (s : State) : (endCommand s).statusReads = s.statusReads := rfl
@[simp] theorem endCommand_draws (s : State) : (endCommand s).draws = s.draws + 1 := rfl

/-! `respond` -/

@[simp] theorem respond_acc (r : Response) (s : State) : (respond r s).acc = s.acc := rfl
@[simp] theorem respond_rcnt (r : Response) (s : State) : (respond r s).rcnt = s.rcnt := rfl
@[simp] theorem respond_fault (r : Response) (s : State) : (respond r s).fault = s.fault := rfl
@[simp] theorem respond_faultCause (r : Response) (s : State) : (respond r s).faultCause = s.faultCause := rfl
@[simp] theorem respond_faultInfo (r : Response) (s : State) : (respond r s).faultInfo = s.faultInfo := rfl
@[simp] theorem respond_ctrl (r : Response) (s : State) : (respond r s).ctrl = .idle := rfl
@[simp] theorem respond_request (r : Response) (s : State) : (respond r s).request = s.request := rfl
@[simp] theorem respond_work (r : Response) (s : State) : (respond r s).work = Working.free s.draws := rfl
@[simp] theorem respond_cur (r : Response) (s : State) : (respond r s).cur = none := rfl
@[simp] theorem respond_source (r : Response) (s : State) : (respond r s).source = s.source := rfl
@[simp] theorem respond_env (r : Response) (s : State) : (respond r s).env = s.env := rfl
@[simp] theorem respond_responses (r : Response) (s : State) : (respond r s).responses = s.responses ++ [r] := rfl
@[simp] theorem respond_requests (r : Response) (s : State) : (respond r s).requests = s.requests := rfl
@[simp] theorem respond_statusReads (r : Response) (s : State) : (respond r s).statusReads = s.statusReads := rfl
@[simp] theorem respond_draws (r : Response) (s : State) : (respond r s).draws = s.draws + 1 := rfl

/-! `readStatusView` -/

@[simp] theorem readStatusView_acc (s : State) : (readStatusView s).acc = s.acc := rfl
@[simp] theorem readStatusView_rcnt (s : State) : (readStatusView s).rcnt = s.rcnt := rfl
@[simp] theorem readStatusView_fault (s : State) : (readStatusView s).fault = s.fault := rfl
@[simp] theorem readStatusView_faultCause (s : State) : (readStatusView s).faultCause = s.faultCause := rfl
@[simp] theorem readStatusView_faultInfo (s : State) : (readStatusView s).faultInfo = s.faultInfo := rfl
@[simp] theorem readStatusView_ctrl (s : State) : (readStatusView s).ctrl = s.ctrl := rfl
@[simp] theorem readStatusView_request (s : State) : (readStatusView s).request = s.request := rfl
@[simp] theorem readStatusView_work (s : State) : (readStatusView s).work = s.work := rfl
@[simp] theorem readStatusView_cur (s : State) : (readStatusView s).cur = s.cur := rfl
@[simp] theorem readStatusView_source (s : State) : (readStatusView s).source = s.source := rfl
@[simp] theorem readStatusView_env (s : State) : (readStatusView s).env = s.env := rfl
@[simp] theorem readStatusView_responses (s : State) : (readStatusView s).responses = s.responses := rfl
@[simp] theorem readStatusView_requests (s : State) : (readStatusView s).requests = s.requests := rfl
@[simp] theorem readStatusView_statusReads (s : State) : (readStatusView s).statusReads = s.statusReads ++ [⟨s.fault, s.faultCause, s.faultInfo⟩] := rfl
@[simp] theorem readStatusView_draws (s : State) : (readStatusView s).draws = s.draws := rfl

/-! `raiseFatal` -/

@[simp] theorem raiseFatal_acc (c : FatalCause) (w : CmdWord) (s : State) : (raiseFatal c w s).acc = s.acc := rfl
@[simp] theorem raiseFatal_rcnt (c : FatalCause) (w : CmdWord) (s : State) : (raiseFatal c w s).rcnt = s.rcnt := rfl
@[simp] theorem raiseFatal_fault (c : FatalCause) (w : CmdWord) (s : State) : (raiseFatal c w s).fault = 1 := rfl
@[simp] theorem raiseFatal_faultCause (c : FatalCause) (w : CmdWord) (s : State) : (raiseFatal c w s).faultCause = c.code := rfl
@[simp] theorem raiseFatal_faultInfo (c : FatalCause) (w : CmdWord) (s : State) : (raiseFatal c w s).faultInfo = w := rfl
@[simp] theorem raiseFatal_ctrl (c : FatalCause) (w : CmdWord) (s : State) : (raiseFatal c w s).ctrl = .idle := rfl
@[simp] theorem raiseFatal_request (c : FatalCause) (w : CmdWord) (s : State) : (raiseFatal c w s).request = s.request := rfl
@[simp] theorem raiseFatal_work (c : FatalCause) (w : CmdWord) (s : State) : (raiseFatal c w s).work = Working.free s.draws := rfl
@[simp] theorem raiseFatal_cur (c : FatalCause) (w : CmdWord) (s : State) : (raiseFatal c w s).cur = none := rfl
@[simp] theorem raiseFatal_source (c : FatalCause) (w : CmdWord) (s : State) : (raiseFatal c w s).source = s.source := rfl
@[simp] theorem raiseFatal_env (c : FatalCause) (w : CmdWord) (s : State) : (raiseFatal c w s).env = s.env := rfl
@[simp] theorem raiseFatal_responses (c : FatalCause) (w : CmdWord) (s : State) : (raiseFatal c w s).responses = s.responses := rfl
@[simp] theorem raiseFatal_requests (c : FatalCause) (w : CmdWord) (s : State) : (raiseFatal c w s).requests = s.requests := rfl
@[simp] theorem raiseFatal_statusReads (c : FatalCause) (w : CmdWord) (s : State) : (raiseFatal c w s).statusReads = s.statusReads := rfl
@[simp] theorem raiseFatal_draws (c : FatalCause) (w : CmdWord) (s : State) : (raiseFatal c w s).draws = s.draws + 1 := rfl

/-! `hardwareReset` -/

@[simp] theorem hardwareReset_acc (s : State) : (hardwareReset s).acc = 0 := rfl
@[simp] theorem hardwareReset_rcnt (s : State) : (hardwareReset s).rcnt = 0 := rfl
@[simp] theorem hardwareReset_fault (s : State) : (hardwareReset s).fault = 0 := rfl
@[simp] theorem hardwareReset_faultCause (s : State) : (hardwareReset s).faultCause = 0 := rfl
@[simp] theorem hardwareReset_faultInfo (s : State) : (hardwareReset s).faultInfo = 0 := rfl
@[simp] theorem hardwareReset_ctrl (s : State) : (hardwareReset s).ctrl = .idle := rfl
@[simp] theorem hardwareReset_request (s : State) : (hardwareReset s).request = none := rfl
@[simp] theorem hardwareReset_work (s : State) : (hardwareReset s).work = Working.atReset := rfl
@[simp] theorem hardwareReset_cur (s : State) : (hardwareReset s).cur = none := rfl
@[simp] theorem hardwareReset_source (s : State) : (hardwareReset s).source = s.source := rfl
@[simp] theorem hardwareReset_env (s : State) : (hardwareReset s).env = s.env := rfl
@[simp] theorem hardwareReset_responses (s : State) : (hardwareReset s).responses = s.responses := rfl
@[simp] theorem hardwareReset_requests (s : State) : (hardwareReset s).requests = s.requests := rfl
@[simp] theorem hardwareReset_statusReads (s : State) : (hardwareReset s).statusReads = s.statusReads := rfl
@[simp] theorem hardwareReset_draws (s : State) : (hardwareReset s).draws = s.draws := rfl

/-! `emptyResidue` -/

@[simp] theorem emptyResidue_acc (s : State) : (emptyResidue s).acc = s.acc := rfl
@[simp] theorem emptyResidue_rcnt (s : State) : (emptyResidue s).rcnt = 0 := rfl
@[simp] theorem emptyResidue_fault (s : State) : (emptyResidue s).fault = s.fault := rfl
@[simp] theorem emptyResidue_faultCause (s : State) : (emptyResidue s).faultCause = s.faultCause := rfl
@[simp] theorem emptyResidue_faultInfo (s : State) : (emptyResidue s).faultInfo = s.faultInfo := rfl
@[simp] theorem emptyResidue_ctrl (s : State) : (emptyResidue s).ctrl = s.ctrl := rfl
@[simp] theorem emptyResidue_request (s : State) : (emptyResidue s).request = s.request := rfl
@[simp] theorem emptyResidue_work (s : State) : (emptyResidue s).work = s.work := rfl
@[simp] theorem emptyResidue_cur (s : State) : (emptyResidue s).cur = s.cur := rfl
@[simp] theorem emptyResidue_source (s : State) : (emptyResidue s).source = s.source := rfl
@[simp] theorem emptyResidue_env (s : State) : (emptyResidue s).env = s.env := rfl
@[simp] theorem emptyResidue_responses (s : State) : (emptyResidue s).responses = s.responses := rfl
@[simp] theorem emptyResidue_requests (s : State) : (emptyResidue s).requests = s.requests := rfl
@[simp] theorem emptyResidue_statusReads (s : State) : (emptyResidue s).statusReads = s.statusReads := rfl
@[simp] theorem emptyResidue_draws (s : State) : (emptyResidue s).draws = s.draws := rfl

/-! `finishInit` -/

@[simp] theorem finishInit_acc (s : State) : (finishInit s).acc = s.acc := rfl
@[simp] theorem finishInit_rcnt (s : State) : (finishInit s).rcnt = 0 := rfl
@[simp] theorem finishInit_fault (s : State) : (finishInit s).fault = s.fault := rfl
@[simp] theorem finishInit_faultCause (s : State) : (finishInit s).faultCause = s.faultCause := rfl
@[simp] theorem finishInit_faultInfo (s : State) : (finishInit s).faultInfo = s.faultInfo := rfl
@[simp] theorem finishInit_ctrl (s : State) : (finishInit s).ctrl = .idle := rfl
@[simp] theorem finishInit_request (s : State) : (finishInit s).request = s.request := rfl
@[simp] theorem finishInit_cur (s : State) : (finishInit s).cur = none := rfl
@[simp] theorem finishInit_source (s : State) : (finishInit s).source = s.source := rfl
@[simp] theorem finishInit_env (s : State) : (finishInit s).env = s.env := rfl
@[simp] theorem finishInit_responses (s : State) : (finishInit s).responses = s.responses ++ [valueResponse .ok 0 none] := rfl
@[simp] theorem finishInit_requests (s : State) : (finishInit s).requests = s.requests := rfl
@[simp] theorem finishInit_statusReads (s : State) : (finishInit s).statusReads = s.statusReads := rfl
@[simp] theorem finishInit_draws (s : State) : (finishInit s).draws = s.draws + 1 := rfl
@[simp] theorem finishInit_work (s : State) : (finishInit s).work = Working.free s.draws := rfl

/-! `enterCore` -/

@[simp] theorem enterCore_acc (n : Width) (s : State) : (enterCore n s).acc = s.acc := rfl
@[simp] theorem enterCore_rcnt (n : Width) (s : State) : (enterCore n s).rcnt = s.rcnt := rfl
@[simp] theorem enterCore_fault (n : Width) (s : State) : (enterCore n s).fault = s.fault := rfl
@[simp] theorem enterCore_faultCause (n : Width) (s : State) : (enterCore n s).faultCause = s.faultCause := rfl
@[simp] theorem enterCore_faultInfo (n : Width) (s : State) : (enterCore n s).faultInfo = s.faultInfo := rfl
@[simp] theorem enterCore_ctrl (n : Width) (s : State) : (enterCore n s).ctrl = s.ctrl := rfl
@[simp] theorem enterCore_request (n : Width) (s : State) : (enterCore n s).request = s.request := rfl
@[simp] theorem enterCore_n (n : Width) (s : State) : (enterCore n s).work.n = n := rfl
@[simp] theorem enterCore_rem (n : Width) (s : State) : (enterCore n s).work.rem = n := rfl
@[simp] theorem enterCore_val (n : Width) (s : State) : (enterCore n s).work.val = 0 := rfl
@[simp] theorem enterCore_k (n : Width) (s : State) : (enterCore n s).work.k = s.work.k := rfl
@[simp] theorem enterCore_idx (n : Width) (s : State) : (enterCore n s).work.idx = s.work.idx := rfl
@[simp] theorem enterCore_consumed (n : Width) (s : State) : (enterCore n s).work.consumed = s.work.consumed := rfl
@[simp] theorem enterCore_results (n : Width) (s : State) : (enterCore n s).work.results = s.work.results := rfl
@[simp] theorem enterCore_cur (n : Width) (s : State) : (enterCore n s).cur = s.cur := rfl
@[simp] theorem enterCore_source (n : Width) (s : State) : (enterCore n s).source = s.source := rfl
@[simp] theorem enterCore_env (n : Width) (s : State) : (enterCore n s).env = s.env := rfl
@[simp] theorem enterCore_responses (n : Width) (s : State) : (enterCore n s).responses = s.responses := rfl
@[simp] theorem enterCore_requests (n : Width) (s : State) : (enterCore n s).requests = s.requests := rfl
@[simp] theorem enterCore_statusReads (n : Width) (s : State) : (enterCore n s).statusReads = s.statusReads := rfl
@[simp] theorem enterCore_draws (n : Width) (s : State) : (enterCore n s).draws = s.draws := rfl

/-! `enterBatch` -/

@[simp] theorem enterBatch_acc (count : Nat) (s : State) : (enterBatch count s).acc = s.acc := rfl
@[simp] theorem enterBatch_rcnt (count : Nat) (s : State) : (enterBatch count s).rcnt = s.rcnt := rfl
@[simp] theorem enterBatch_fault (count : Nat) (s : State) : (enterBatch count s).fault = s.fault := rfl
@[simp] theorem enterBatch_faultCause (count : Nat) (s : State) : (enterBatch count s).faultCause = s.faultCause := rfl
@[simp] theorem enterBatch_faultInfo (count : Nat) (s : State) : (enterBatch count s).faultInfo = s.faultInfo := rfl
@[simp] theorem enterBatch_ctrl (count : Nat) (s : State) : (enterBatch count s).ctrl = s.ctrl := rfl
@[simp] theorem enterBatch_request (count : Nat) (s : State) : (enterBatch count s).request = s.request := rfl
@[simp] theorem enterBatch_n (count : Nat) (s : State) : (enterBatch count s).work.n = s.work.n := rfl
@[simp] theorem enterBatch_rem (count : Nat) (s : State) : (enterBatch count s).work.rem = s.work.rem := rfl
@[simp] theorem enterBatch_val (count : Nat) (s : State) : (enterBatch count s).work.val = s.work.val := rfl
@[simp] theorem enterBatch_k (count : Nat) (s : State) : (enterBatch count s).work.k = BitVec.ofNat 14 count := rfl
@[simp] theorem enterBatch_idx (count : Nat) (s : State) : (enterBatch count s).work.idx = 0 := rfl
@[simp] theorem enterBatch_consumed (count : Nat) (s : State) : (enterBatch count s).work.consumed = 0 := rfl
@[simp] theorem enterBatch_results (count : Nat) (s : State) : (enterBatch count s).work.results = [] := rfl
@[simp] theorem enterBatch_cur (count : Nat) (s : State) : (enterBatch count s).cur = s.cur := rfl
@[simp] theorem enterBatch_source (count : Nat) (s : State) : (enterBatch count s).source = s.source := rfl
@[simp] theorem enterBatch_env (count : Nat) (s : State) : (enterBatch count s).env = s.env := rfl
@[simp] theorem enterBatch_responses (count : Nat) (s : State) : (enterBatch count s).responses = s.responses := rfl
@[simp] theorem enterBatch_requests (count : Nat) (s : State) : (enterBatch count s).requests = s.requests := rfl
@[simp] theorem enterBatch_statusReads (count : Nat) (s : State) : (enterBatch count s).statusReads = s.statusReads := rfl
@[simp] theorem enterBatch_draws (count : Nat) (s : State) : (enterBatch count s).draws = s.draws := rfl

/-! `nextElement` -/

@[simp] theorem nextElement_acc (s : State) : (nextElement s).acc = s.acc := rfl
@[simp] theorem nextElement_rcnt (s : State) : (nextElement s).rcnt = s.rcnt := rfl
@[simp] theorem nextElement_fault (s : State) : (nextElement s).fault = s.fault := rfl
@[simp] theorem nextElement_faultCause (s : State) : (nextElement s).faultCause = s.faultCause := rfl
@[simp] theorem nextElement_faultInfo (s : State) : (nextElement s).faultInfo = s.faultInfo := rfl
@[simp] theorem nextElement_ctrl (s : State) : (nextElement s).ctrl = s.ctrl := rfl
@[simp] theorem nextElement_request (s : State) : (nextElement s).request = s.request := rfl
@[simp] theorem nextElement_n (s : State) : (nextElement s).work.n = s.work.n := rfl
@[simp] theorem nextElement_rem (s : State) : (nextElement s).work.rem = s.work.rem := rfl
@[simp] theorem nextElement_val (s : State) : (nextElement s).work.val = s.work.val := rfl
@[simp] theorem nextElement_k (s : State) : (nextElement s).work.k = s.work.k := rfl
@[simp] theorem nextElement_idx (s : State) : (nextElement s).work.idx = s.work.idx + 1 := rfl
@[simp] theorem nextElement_consumed (s : State) : (nextElement s).work.consumed = s.work.consumed := rfl
@[simp] theorem nextElement_results (s : State) : (nextElement s).work.results = s.work.results := rfl
@[simp] theorem nextElement_cur (s : State) : (nextElement s).cur = s.cur := rfl
@[simp] theorem nextElement_source (s : State) : (nextElement s).source = s.source := rfl
@[simp] theorem nextElement_env (s : State) : (nextElement s).env = s.env := rfl
@[simp] theorem nextElement_responses (s : State) : (nextElement s).responses = s.responses := rfl
@[simp] theorem nextElement_requests (s : State) : (nextElement s).requests = s.requests := rfl
@[simp] theorem nextElement_statusReads (s : State) : (nextElement s).statusReads = s.statusReads := rfl
@[simp] theorem nextElement_draws (s : State) : (nextElement s).draws = s.draws := rfl

/-! `recordField` -/

@[simp] theorem recordField_acc (v : Word64) (s : State) : (recordField v s).acc = s.acc := rfl
@[simp] theorem recordField_rcnt (v : Word64) (s : State) : (recordField v s).rcnt = s.rcnt := rfl
@[simp] theorem recordField_fault (v : Word64) (s : State) : (recordField v s).fault = s.fault := rfl
@[simp] theorem recordField_faultCause (v : Word64) (s : State) : (recordField v s).faultCause = s.faultCause := rfl
@[simp] theorem recordField_faultInfo (v : Word64) (s : State) : (recordField v s).faultInfo = s.faultInfo := rfl
@[simp] theorem recordField_ctrl (v : Word64) (s : State) : (recordField v s).ctrl = s.ctrl := rfl
@[simp] theorem recordField_request (v : Word64) (s : State) : (recordField v s).request = s.request := rfl
@[simp] theorem recordField_n (v : Word64) (s : State) : (recordField v s).work.n = s.work.n := rfl
@[simp] theorem recordField_rem (v : Word64) (s : State) : (recordField v s).work.rem = s.work.rem := rfl
@[simp] theorem recordField_val (v : Word64) (s : State) : (recordField v s).work.val = s.work.val := rfl
@[simp] theorem recordField_k (v : Word64) (s : State) : (recordField v s).work.k = s.work.k := rfl
@[simp] theorem recordField_idx (v : Word64) (s : State) : (recordField v s).work.idx = s.work.idx := rfl
@[simp] theorem recordField_consumed (v : Word64) (s : State) : (recordField v s).work.consumed = s.work.consumed + s.work.n.toNat := rfl
@[simp] theorem recordField_results (v : Word64) (s : State) : (recordField v s).work.results = s.work.results ++ [v] := rfl
@[simp] theorem recordField_cur (v : Word64) (s : State) : (recordField v s).cur = s.cur := rfl
@[simp] theorem recordField_source (v : Word64) (s : State) : (recordField v s).source = s.source := rfl
@[simp] theorem recordField_env (v : Word64) (s : State) : (recordField v s).env = s.env := rfl
@[simp] theorem recordField_responses (v : Word64) (s : State) : (recordField v s).responses = s.responses := rfl
@[simp] theorem recordField_requests (v : Word64) (s : State) : (recordField v s).requests = s.requests := rfl
@[simp] theorem recordField_statusReads (v : Word64) (s : State) : (recordField v s).statusReads = s.statusReads := rfl
@[simp] theorem recordField_draws (v : Word64) (s : State) : (recordField v s).draws = s.draws := rfl

/-! `offerNext` -/

@[simp] theorem offerNext_acc (ws : List CmdWord) (s : State) : (offerNext ws s).acc = s.acc := rfl
@[simp] theorem offerNext_rcnt (ws : List CmdWord) (s : State) : (offerNext ws s).rcnt = s.rcnt := rfl
@[simp] theorem offerNext_fault (ws : List CmdWord) (s : State) : (offerNext ws s).fault = 0 := rfl
@[simp] theorem offerNext_faultCause (ws : List CmdWord) (s : State) : (offerNext ws s).faultCause = s.faultCause := rfl
@[simp] theorem offerNext_faultInfo (ws : List CmdWord) (s : State) : (offerNext ws s).faultInfo = s.faultInfo := rfl
@[simp] theorem offerNext_ctrl (ws : List CmdWord) (s : State) : (offerNext ws s).ctrl = .idle := rfl
@[simp] theorem offerNext_request (ws : List CmdWord) (s : State) : (offerNext ws s).request = s.request := rfl
@[simp] theorem offerNext_work (ws : List CmdWord) (s : State) : (offerNext ws s).work = s.work := rfl
@[simp] theorem offerNext_cur (ws : List CmdWord) (s : State) : (offerNext ws s).cur = s.cur := rfl
@[simp] theorem offerNext_source (ws : List CmdWord) (s : State) : (offerNext ws s).source = s.source := rfl
@[simp] theorem offerNext_env (ws : List CmdWord) (s : State) : (offerNext ws s).env = .command ws :: s.env := rfl
@[simp] theorem offerNext_responses (ws : List CmdWord) (s : State) : (offerNext ws s).responses = s.responses := rfl
@[simp] theorem offerNext_requests (ws : List CmdWord) (s : State) : (offerNext ws s).requests = s.requests := rfl
@[simp] theorem offerNext_statusReads (ws : List CmdWord) (s : State) : (offerNext ws s).statusReads = s.statusReads := rfl
@[simp] theorem offerNext_draws (ws : List CmdWord) (s : State) : (offerNext ws s).draws = s.draws := rfl

end Sys2Proof.Machine
end

