-- ==== Sys2Proof/Laws/ReadCore.lean ====
section
/-! SUPPORT. All that a source request, the accumulation loop and a ReadCore can come to (20_memory R41, 41_read R90 to R108). -/
namespace Sys2Proof.Machine

theorem referenceAnswer_fits (k : Nat) (held : List Byte) : (referenceAnswer k held).1.fits k = true := by
  unfold referenceAnswer
  split
  · simpa [SrcResponse.fits] using ‹_›
  · split
    · rfl
    · simp only [SrcResponse.fits, decide_eq_true_eq]; omega

/-- All that a source request can come to. -/
theorem sourceReadExact_cases (k : Nat) (s : State) :
    (∃ r s', sourceReadExact k s = .answered r s' ∧ r.fits k = true ∧
      ((∃ rest, s.source = .external ∧ s.env = .answer r :: rest ∧
          s' = takeAnswer { issueRequest k s with env := rest }) ∨
       (∃ held, s.source = .reference held ∧ r = (referenceAnswer k held).1 ∧
          s' = takeAnswer { issueRequest k s with source := .reference (referenceAnswer k held).2 }))) ∨
    (sourceReadExact k s = .waiting (issueRequest k s) ∧ s.source = .external ∧ ∀ r rest, s.env ≠ .answer r :: rest) ∨
    (sourceReadExact k s = .broken .malformedAnswer ∧ s.source = .external ∧
      ∃ r rest, s.env = .answer r :: rest ∧ r.fits k = false) := by
  unfold sourceReadExact
  cases hs : s.source with
  | reference held =>
    exact .inl ⟨_, _, rfl, referenceAnswer_fits k held, .inr ⟨held, rfl, rfl, rfl⟩⟩
  | external =>
    rcases he : s.env with _ | ⟨e, rest⟩
    · exact .inr (.inl ⟨by simp, rfl, by simp⟩)
    · cases e with
      | answer r =>
        by_cases hf : r.fits k = true
        · exact .inl ⟨r, _, by simp [hf], hf, .inl ⟨rest, rfl, rfl, rfl⟩⟩
        · exact .inr (.inr ⟨by simp [hf], rfl, r, rest, rfl, by simpa using hf⟩)
      | _ => exact .inr (.inl ⟨by simp, rfl, by simp⟩)

theorem takeChunk_of_min_eq_zero {s : State} (h : min s.rcnt.toNat s.work.rem.toNat = 0) : takeChunk s = s := by
  simp [takeChunk, h, chunk, mask, fold]

theorem takeChunk_rcnt_toNat (s : State) : (takeChunk s).rcnt.toNat = s.rcnt.toNat - s.work.rem.toNat := by
  have := s.rcnt.isLt
  simp only [takeChunk_rcnt, BitVec.toNat_ofNat]
  rw [Nat.mod_eq_of_lt (by omega)]; omega

theorem takeChunk_rem_toNat (s : State) : (takeChunk s).work.rem.toNat = s.work.rem.toNat - s.rcnt.toNat := by
  have := s.work.rem.isLt
  simp only [takeChunk_rem, BitVec.toNat_ofNat]
  rw [Nat.mod_eq_of_lt (by omega)]; omega

/-- The fold is exact as long as VAL has room for the chunk (41_read R101). -/
theorem takeChunk_val_toNat {s : State} {a : Nat} (hv : s.work.val.toNat < 2 ^ a)
    (ha : a + min s.rcnt.toNat s.work.rem.toNat ≤ 64) :
    (takeChunk s).work.val.toNat = s.work.val.toNat * 2 ^ min s.rcnt.toNat s.work.rem.toNat +
      s.acc.toNat / 2 ^ (s.rcnt.toNat - s.work.rem.toNat) % 2 ^ min s.rcnt.toNat s.work.rem.toNat := by
  have hc := chunk_lt s.acc.toNat s.rcnt.toNat (min s.rcnt.toNat s.work.rem.toNat)
  have hl := fold_lt hc hv
  have : 2 ^ (a + min s.rcnt.toNat s.work.rem.toNat) ≤ 2 ^ 64 := Nat.pow_le_pow_right (by omega) ha
  rw [takeChunk_val, BitVec.toNat_ofNat, Nat.mod_eq_of_lt (by omega), fold_eq hc, chunk_eq,
    show s.rcnt.toNat - min s.rcnt.toNat s.work.rem.toNat = s.rcnt.toNat - s.work.rem.toNat by omega]

theorem refillSize_le {rem : Nat} (h : rem ≤ 64) : refillSize rem ≤ 8 := by unfold refillSize; omega
theorem refillSize_pos {rem : Nat} (h : 1 ≤ rem) : 1 ≤ refillSize rem := by unfold refillSize; omega
theorem le_refillSize (rem : Nat) : rem ≤ 8 * refillSize rem := by unfold refillSize; omega

theorem refill_rcnt_toNat {bs : List Byte} (s : State) (h : bs.length ≤ 8) : (refill bs s).rcnt.toNat = 8 * bs.length := by
  simp only [refill_rcnt, BitVec.toNat_ofNat]; exact Nat.mod_eq_of_lt (by omega)

theorem refill_acc_toNat {bs : List Byte} (s : State) (h : bs.length ≤ 8) : (refill bs s).acc.toNat = packBytes bs := by
  have := packBytes_lt bs
  have : 2 ^ (8 * bs.length) ≤ 2 ^ 64 := Nat.pow_le_pow_right (by omega) (by omega)
  simp only [refill_acc, BitVec.toNat_ofNat]; exact Nat.mod_eq_of_lt (by omega)

/-- What a ReadCore ends with once its one request is answered (41_read R93 to R100, R103). -/
def coreAnswer (r : SrcResponse) (s : State) : CoreResult :=
  match onAnswer r s with
  | .refilled s' => .done .ok (takeChunk s').work.val none (takeChunk s')
  | .failed st e => .done st 0 e s

/-- What a ReadCore comes to at its one request. -/
def coreRequest (k : Nat) (s : State) : CoreResult :=
  match sourceReadExact k s with
  | .answered r s' => coreAnswer r s'
  | .waiting s' => .waiting s'
  | .broken f => .broken f

/-- One turn and the rest of the loop, turn by turn as 41_read R108 writes it. -/
theorem readLoop_succ (fuel : Nat) (s : State) :
    readLoop (fuel + 1) s =
      if s.work.rem = 0 then .done .ok s.work.val none s
      else if s.rcnt = 0 then
        match sourceReadExact (refillSize s.work.rem.toNat) s with
        | .answered r s' =>
          match onAnswer r s' with
          | .refilled s'' => readLoop fuel (takeChunk s'')
          | .failed st e => .done st 0 e s'
        | .waiting s' => .waiting s'
        | .broken f => .broken f
      else readLoop fuel (takeChunk s) := by
  by_cases h0 : s.work.rem = 0
  · simp [readLoop, readTurn, h0]
  · by_cases h1 : s.rcnt = 0
    · simp only [readLoop, readTurn, if_neg h0, if_pos h1]
      cases sourceReadExact (refillSize s.work.rem.toNat) s with
      | answered r s' => simp only; cases onAnswer r s' <;> rfl
      | waiting s' => rfl
      | broken f => rfl
    · simp only [readLoop, readTurn, if_neg h0, if_neg h1]

theorem readLoop_rem_zero {s : State} (fuel : Nat) (h : s.work.rem.toNat = 0) :
    readLoop fuel s = .done .ok s.work.val none s := by
  have : s.work.rem = 0 := BitVec.eq_of_toNat_eq (by simpa using h)
  cases fuel
  · rfl
  · rw [readLoop_succ, if_pos this]

/-- The residue serves the rest of the field: one chunk, no request (41_read R103). -/
theorem readLoop_residue {s : State} {fuel : Nat} (hr : s.work.rem.toNat ≤ s.rcnt.toNat) (hf : s.work.rem.toNat ≤ fuel) :
    readLoop fuel s = .done .ok (takeChunk s).work.val none (takeChunk s) := by
  by_cases h0 : s.work.rem.toNat = 0
  · rw [readLoop_rem_zero fuel h0, takeChunk_of_min_eq_zero (by omega)]
  · obtain ⟨fuel, rfl⟩ : ∃ f, fuel = f + 1 := ⟨fuel - 1, by omega⟩
    have h1 : ¬ s.work.rem = 0 := fun h => h0 (by simp [h])
    have h2 : ¬ s.rcnt = 0 := fun h => h0 (by simpa [h] using hr)
    rw [readLoop_succ, if_neg h1, if_neg h2, readLoop_rem_zero _ (by rw [takeChunk_rem_toNat]; omega)]

/-- An answered request ends the ReadCore (41_read R103). -/
theorem answered_core {r : SrcResponse} {s : State} {fuel : Nat} (hf : r.fits (refillSize s.work.rem.toNat) = true)
    (h64 : s.work.rem.toNat ≤ 64) :
    (match onAnswer r s with
      | .refilled s' => readLoop fuel (takeChunk s')
      | .failed st e => .done st 0 e s) = coreAnswer r s := by
  unfold coreAnswer
  cases r <;> try rfl
  rename_i bs
  simp only [SrcResponse.fits, beq_iff_eq] at hf
  have := le_refillSize s.work.rem.toNat
  have := refillSize_le h64
  simp only [onAnswer]
  rw [readLoop_rem_zero]
  rw [takeChunk_rem_toNat, refill_rcnt_toNat _ (by omega), refill_work]; omega

/-- With an empty residue and bits missing, the loop issues its one request (41_read R92, R103). -/
theorem readLoop_empty {s : State} {fuel : Nat} (h0 : s.rcnt.toNat = 0) (h1 : 1 ≤ s.work.rem.toNat)
    (h64 : s.work.rem.toNat ≤ 64) (hf : s.work.rem.toNat ≤ fuel) :
    readLoop fuel s = coreRequest (refillSize s.work.rem.toNat) s := by
  obtain ⟨fuel, rfl⟩ : ∃ f, fuel = f + 1 := ⟨fuel - 1, by omega⟩
  have h2 : ¬ s.work.rem = 0 := fun h => by simp [h] at h1
  have h3 : s.rcnt = 0 := BitVec.eq_of_toNat_eq (by simpa using h0)
  rw [readLoop_succ, if_neg h2, if_pos h3, coreRequest]
  rcases sourceReadExact_cases (refillSize s.work.rem.toNat) s with ⟨r, s', e, hfit, hs⟩ | ⟨e, _⟩ | ⟨e, _⟩
  · have hw : s'.work = s.work := by rcases hs with ⟨_, _, _, rfl⟩ | ⟨_, _, _, rfl⟩ <;> rfl
    simp only [e]
    exact answered_core (by rw [hw]; exact hfit) (by rw [hw]; exact h64)
  · simp only [e]
  · simp only [e]

/-- The shape of the loop (41_read R103): the residue serves the field, or it is drained and one request follows. -/
theorem readLoop_shape {s : State} {fuel : Nat} (h64 : s.work.rem.toNat ≤ 64) (hf : s.work.rem.toNat ≤ fuel) :
    readLoop fuel s =
      if s.work.rem.toNat ≤ s.rcnt.toNat then .done .ok (takeChunk s).work.val none (takeChunk s)
      else coreRequest (refillSize (s.work.rem.toNat - s.rcnt.toNat)) (takeChunk s) := by
  split
  · exact readLoop_residue ‹_› hf
  · rename_i hlt
    by_cases h0 : s.rcnt.toNat = 0
    · rw [takeChunk_of_min_eq_zero (by omega), h0, Nat.sub_zero, readLoop_empty h0 (by omega) h64 hf]
    · obtain ⟨fuel, rfl⟩ : ∃ f, fuel = f + 1 := ⟨fuel - 1, by omega⟩
      have h2 : ¬ s.work.rem = 0 := fun h => by simp [h] at hlt
      have h3 : ¬ s.rcnt = 0 := fun h => by simp [h] at h0
      have hr := takeChunk_rem_toNat s
      have hc := takeChunk_rcnt_toNat s
      rw [readLoop_succ, if_neg h2, if_neg h3, readLoop_empty (by omega) (by omega) (by omega) (by omega), hr]

/-- A fuel of REM turns is enough (41_read R108). -/
theorem readLoop_fuel {s : State} {fuel fuel' : Nat} (h64 : s.work.rem.toNat ≤ 64) (hf : s.work.rem.toNat ≤ fuel)
    (hf' : s.work.rem.toNat ≤ fuel') : readLoop fuel s = readLoop fuel' s := by
  rw [readLoop_shape h64 hf, readLoop_shape h64 hf']

/-- A turn of the loop, and the rest of the loop after it, are the loop (41_read R108). -/
theorem readTurn_then_loop {s : State} (h64 : s.work.rem.toNat ≤ 64) :
    (∀ s', readTurn s = .more s' → s'.work.rem.toNat ≤ 64 ∧
      readLoop s'.work.rem.toNat s' = readLoop s.work.rem.toNat s) ∧
    (∀ res, readTurn s = .ends res → readLoop s.work.rem.toNat s = res) := by
  by_cases h0 : s.work.rem = 0
  · refine ⟨fun s' h => ?_, fun res h => ?_⟩
    · rw [readTurn, if_pos h0] at h; cases h
    · rw [readTurn, if_pos h0] at h; cases h; exact readLoop_rem_zero _ (by simp [h0])
  · have h1 : s.work.rem.toNat ≠ 0 := fun h => h0 (BitVec.eq_of_toNat_eq (by simpa using h))
    obtain ⟨fuel, hf⟩ : ∃ f, s.work.rem.toNat = f + 1 := ⟨s.work.rem.toNat - 1, by omega⟩
    refine ⟨fun s' h => ?_, fun res h => ?_⟩
    · have hle : s'.work.rem.toNat ≤ fuel := by
        rw [readTurn, if_neg h0] at h
        split at h
        · rcases sourceReadExact_cases (refillSize s.work.rem.toNat) s with ⟨r, u, e, hfit, hs⟩ | ⟨e, _⟩ | ⟨e, _⟩
          · have hw : u.work = s.work := by rcases hs with ⟨_, _, _, rfl⟩ | ⟨_, _, _, rfl⟩ <;> rfl
            rw [e] at h
            cases r <;> simp only [onAnswer] at h <;> cases h
            rename_i bs
            simp only [SrcResponse.fits, beq_iff_eq] at hfit
            have := refillSize_le h64
            have := refillSize_pos (rem := s.work.rem.toNat) (by omega)
            rw [takeChunk_rem_toNat, refill_rcnt_toNat _ (by omega), refill_work, hw]; omega
          · rw [e] at h; cases h
          · rw [e] at h; cases h
        · rename_i hr
          have : s.rcnt.toNat ≠ 0 := fun h => hr (BitVec.eq_of_toNat_eq (by simpa using h))
          cases h
          rw [takeChunk_rem_toNat]; omega
      refine ⟨by omega, ?_⟩
      rw [hf, readLoop, h]
      exact readLoop_fuel (by omega) (Nat.le_refl _) hle
    · rw [hf, readLoop, h]

/-- The shape of ReadCore (41_read R90, R103). -/
theorem readCore_shape (w : CmdWord) (n : Width) (s : State) :
    readCore w n s =
      if 64 < n.toNat then .raised (raiseFatal .contractViolation w s)
      else if n.toNat ≤ s.rcnt.toNat then
        .done .ok (takeChunk (enterCore n s)).work.val none (takeChunk (enterCore n s))
      else coreRequest (refillSize (n.toNat - s.rcnt.toNat)) (takeChunk (enterCore n s)) := by
  unfold readCore
  split
  · rfl
  · rename_i h
    rw [readLoop_shape (Nat.le_of_not_lt h) (by simp)]; rfl

/-- A waiting ReadCore that is answered ends as if it had been answered at once. -/
theorem resumeCore_eq {r : SrcResponse} {s : State} (hf : r.fits (refillSize s.work.rem.toNat) = true)
    (h64 : s.work.rem.toNat ≤ 64) : resumeCore r s = coreAnswer r s := by
  unfold resumeCore coreAnswer
  cases r <;> try rfl
  rename_i bs
  simp only [SrcResponse.fits, beq_iff_eq] at hf
  have := le_refillSize s.work.rem.toNat
  have := refillSize_le h64
  simp only [onAnswer]
  exact readLoop_residue (by rw [refill_rcnt_toNat _ (by omega), refill_work]; omega) (by simp)
end Sys2Proof.Machine
end

