-- ==== Sys2Proof/Laws/Step.lean ====
section
/-! SUPPORT. What admission, dispatch and a step can come to (20_memory R52, 30_encoding R69, 60_exceptions R148). -/
namespace Sys2Proof.Machine
open Safety

theorem accept_ready {s : State} (h : ready s) (f : State → Result) : accept s f = f s := by
  simp [accept, h.1, h.2]

theorem accept_faulted {s : State} (h : s.fault = 1) (f : State → Result) : accept s f = .next s := by
  simp [accept, h]

theorem accept_busy {s : State} (h : s.fault = 0) (hc : s.ctrl ≠ .idle) (f : State → Result) :
    accept s f = .refused .commandWhileBusy := by
  simp [accept, h, hc]

/-- Every command is accepted first: what holds of `accept` on a state holds of `exec`. -/
theorem exec_eq_accept (i : Instr) (s : State) : ∃ f, exec i s = accept s f := by
  cases i
  · exact ⟨_, by rw [exec, execRead]⟩
  · exact ⟨_, by rw [exec, execFields]⟩
  · exact ⟨_, by rw [exec, execInit]⟩

theorem exec_faulted {s : State} (h : s.fault = 1) (i : Instr) : exec i s = .next s := by
  obtain ⟨f, e⟩ := exec_eq_accept i s; rw [e, accept_faulted h]

theorem exec_read_ready {s : State} (h : ready s) (n : Width) :
    exec (.read n) s = finishRead (readCore (encodeWidth n) n (begin (.read n) s)) := by
  rw [exec, execRead, accept_ready h]

theorem exec_fields_ready {s : State} (h : ready s) (es : List CmdWord) :
    exec (.fields es) s = fieldsLoop es (enterBatch es.length (begin (.fields es) s)) := by
  rw [exec, execFields, accept_ready h]

theorem exec_init_ready {s : State} (h : ready s) :
    exec .init s = .next (finishInit (begin .init s)) := by
  rw [exec, execInit, accept_ready h]

theorem step_of_run {s s' : State} {i : Instr} (h : nextAction s = .run i s') : step s = exec i s' := by
  rw [step, h]

theorem step_of_done {s : State} {o : Result} (h : nextAction s = .done o) : step s = o := by rw [step, h]

/-- A step is what the receiving of the next move leads to, on a core that is not left running. -/
theorem step_of_move {s : State} {e : EnvEvent} {rest : List EnvEvent} (hr : running s = false ∨ atAnyTime e = true)
    (h : s.env = e :: rest) :
    (∀ i s', receive e { s with env := rest } = .run i s' → step s = exec i s') ∧
    (∀ o, receive e { s with env := rest } = .done o → step s = o) := by
  have ha : nextAction s = receive e { s with env := rest } := by
    rcases hr with hr | hr <;> simp [nextAction, h, hr]
  exact ⟨fun i s' hi => step_of_run (ha.trans hi), fun o ho => step_of_done (ha.trans ho)⟩

theorem running_of_ready {s : State} (h : ready s) : running s = false := by simp [running, h.2]
theorem running_of_faulted {s : State} (h : s.fault = 1) : running s = false := by simp [running, h]
theorem running_of_waiting {s : State} (h : s.ctrl = .waitSrc) : running s = false := by simp [running, h]

/-- A transaction that is no command: an illegal word, or not all of its words. -/
theorem rejectTransaction_cases (e : DecodeError) (s : State) :
    (∃ w, illegalWord e = some w ∧
      rejectTransaction e s = accept s fun s => .next (raiseFatal .illegalCommand w s)) ∨
    (e = .wrongLength ∧ rejectTransaction e s = accept s fun _ => .refused .incompleteTransaction) := by
  cases e <;> simp [rejectTransaction, illegalWord]

/-- What the host's transaction leads to. -/
theorem offer_cases (ws : List CmdWord) (s : State) :
    (∃ i, decode ws = .instr i ∧ offer ws s = .run i s) ∨
    (∃ e w, decode ws = .rejected e ∧ illegalWord e = some w ∧
      offer ws s = .done (accept s fun s => .next (raiseFatal .illegalCommand w s))) ∨
    (decode ws = .rejected .wrongLength ∧ offer ws s = .done (accept s fun _ => .refused .incompleteTransaction)) := by
  unfold offer
  cases decode ws with
  | instr i => exact .inl ⟨i, rfl, rfl⟩
  | rejected e => cases e <;> simp [rejectTransaction, illegalWord]

/-- What it leads to when the core is left at the start of the command. -/
theorem offerHeld_cases (ws : List CmdWord) (s : State) :
    (∃ i, decode ws = .instr i ∧ offerHeld ws s = accept s (startCommand i)) ∨
    (∃ e w, decode ws = .rejected e ∧ illegalWord e = some w ∧
      offerHeld ws s = accept s fun s => .next (raiseFatal .illegalCommand w s)) ∨
    (decode ws = .rejected .wrongLength ∧ offerHeld ws s = accept s fun _ => .refused .incompleteTransaction) := by
  unfold offerHeld
  cases decode ws with
  | instr i => exact .inl ⟨i, rfl, rfl⟩
  | rejected e => cases e <;> simp [rejectTransaction, illegalWord]

/-- An answer: none was asked for, it is none of R42's, or the core takes it (20_memory R41). -/
theorem answerRequest_cases (r : SrcResponse) (s : State) (act : State → Result) :
    (answerRequest r s act = .fault .unsolicitedAnswer ∧ ¬(s.fault = 0 ∧ s.ctrl = .waitSrc ∧ ∃ k, s.request = some k)) ∨
    (∃ k, s.fault = 0 ∧ s.ctrl = .waitSrc ∧ s.request = some k ∧ r.fits k = false ∧
      answerRequest r s act = .fault .malformedAnswer) ∨
    (∃ k, s.fault = 0 ∧ s.ctrl = .waitSrc ∧ s.request = some k ∧ r.fits k = true ∧
      answerRequest r s act = act (takeAnswer s)) := by
  unfold answerRequest
  cases hk : s.request with
  | none => exact .inl ⟨rfl, by simp⟩
  | some k =>
    by_cases hc : s.fault = 0 ∧ s.ctrl = .waitSrc
    · by_cases hf : r.fits k = true
      · exact .inr (.inr ⟨k, hc.1, hc.2, rfl, hf, by simp [hc, hf]⟩)
      · exact .inr (.inl ⟨k, hc.1, hc.2, rfl, by simpa using hf, by simp [hc, hf]⟩)
    · exact .inl ⟨by simp only [if_neg hc], fun h => hc ⟨h.1, h.2.1⟩⟩

/-- A step of an executing command, where the next move is none that may come at any time, is its running on. -/
theorem step_of_running {s : State} (hr : running s = true) (h : ∀ e rest, s.env = e :: rest → atAnyTime e = false) :
    step s = runOn s := by
  apply step_of_done
  cases he : s.env with
  | nil => simp [nextAction, he, hr]
  | cons e rest => simp [nextAction, he, hr, h e rest he]

end Sys2Proof.Machine
end

