-- ==== Sys2Proof/Laws/ReadCoreCases.lean ====
section
/-! SUPPORT. All that a ReadCore can come to, in one lemma (41_read R90 to R108), and what a waiting core's answer leads to
(20_memory R41). -/
namespace Sys2Proof.Machine

/-- The partial result once the residue is drained or the field served (41_read R96 to R101). -/
theorem drained_val (n : Width) (s : State) (h : n.toNat ≤ 64) :
    (takeChunk (enterCore n s)).work.val.toNat =
      s.acc.toNat / 2 ^ (s.rcnt.toNat - n.toNat) % 2 ^ min s.rcnt.toNat n.toNat := by
  rw [takeChunk_val_toNat (a := 0) (by simp) (by simp; omega)]; simp

/-- What the drained residue leaves to be requested (41_read R99, R91). -/
theorem drained_rem (n : Width) (s : State) : (takeChunk (enterCore n s)).work.rem.toNat = n.toNat - s.rcnt.toNat := by
  rw [takeChunk_rem_toNat]; simp

/-- A drained residue is empty (41_read R99). -/
theorem drained_rcnt (n : Width) (s : State) (h : s.rcnt.toNat < n.toNat) : (takeChunk (enterCore n s)).rcnt = 0 := by
  apply BitVec.eq_of_toNat_eq; rw [takeChunk_rcnt_toNat]; simp; omega

/-- What a ReadCore leaves alone (41_read R90 to R108): the fault registers, the command, the responses, the status reads
and the batch's own working registers. -/
structure CoreFrame (s t : State) : Prop where
  fault : t.fault = s.fault
  cause : t.faultCause = s.faultCause
  info : t.faultInfo = s.faultInfo
  cur : t.cur = s.cur
  resp : t.responses = s.responses
  stat : t.statusReads = s.statusReads
  k : t.work.k = s.work.k
  idx : t.work.idx = s.work.idx
  cons : t.work.consumed = s.work.consumed
  res : t.work.results = s.work.results
  draws : t.draws = s.draws

/-- Beside that, how it uses its port (20_memory R41, R43, R57): at most one request, of 1 to 8 bytes, and the answer taken
from the moves to come, or from the reference source. -/
structure CoreEffect (s t : State) : Prop extends CoreFrame s t where
  req : ∃ ks, t.requests = s.requests ++ ks ∧ ks.length ≤ 1 ∧ ∀ k ∈ ks, 1 ≤ k ∧ k ≤ 8
  env : ∃ as : List SrcResponse, s.env = as.map .answer ++ t.env
  ext : s.source = .external → t.source = .external
  ref : ∀ held, s.source = .reference held → ∃ j, t.source = .reference (held.drop j)

/-- Draining the residue is a step of ReadCore. -/
theorem coreFrame_drain (n : Width) (s : State) : CoreFrame s (takeChunk (enterCore n s)) := by constructor <;> simp

/-- What uses no port. -/
theorem coreEffect_of_coreFrame {s t : State} (h : CoreFrame s t) (h1 : t.requests = s.requests) (h2 : t.env = s.env)
    (h3 : t.source = s.source) : CoreEffect s t :=
  { h with
    req := ⟨[], by simp [h1], by simp, by simp⟩
    env := ⟨[], by simp [h2]⟩
    ext := by rw [h3]; exact id
    ref := fun held hh => ⟨0, by rw [h3, hh]; rfl⟩ }

/-- The reference source is read forward only (20_memory R40, R57). -/
theorem ref_drop (k : Nat) (held : List Byte) : ∃ j, (referenceAnswer k held).2 = held.drop j := by
  unfold referenceAnswer
  split
  · exact ⟨k, rfl⟩
  · split
    · exact ⟨0, rfl⟩
    · exact ⟨held.length, by simp⟩

/-- All that an answered request can come to (41_read R93 to R95). -/
theorem coreAnswer_cases (r : SrcResponse) (s : State) :
    (∃ bs, r = .ok bs ∧ coreAnswer r s = .done .ok (takeChunk (refill bs s)).work.val none (takeChunk (refill bs s))) ∨
    (∃ st e, st ≠ .ok ∧ coreAnswer r s = .done st 0 e s ∧ onAnswer r s = .failed st e ∧ ∀ bs, r ≠ .ok bs) := by
  cases r with
  | ok bs => exact .inl ⟨bs, rfl, rfl⟩
  | eofZero => refine .inr ⟨_, _, ?_, rfl, rfl, by simp⟩; unfold eosStatus; split <;> simp
  | eofPartial j => exact .inr ⟨_, _, by simp, rfl, rfl, by simp⟩
  | ioError e => exact .inr ⟨_, _, by simp, rfl, rfl, by simp⟩

/-- All that a ReadCore can come to (41_read R90 to R106): it raises ContractViolation, returns OK, returns another status,
waits for the source, or meets an answer that is none. -/
theorem readCore_cases (w : CmdWord) (n : Width) (s : State) :
    (64 < n.toNat ∧ readCore w n s = .raised (raiseFatal .contractViolation w s)) ∨
    (n.toNat ≤ 64 ∧ ∃ v t, readCore w n s = .done .ok v none t ∧ CoreEffect s t ∧ t.work.n = n ∧ v.toNat < 2 ^ n.toNat ∧
      (t.rcnt.toNat ≤ 7 ∨ t.rcnt.toNat ≤ s.rcnt.toNat) ∧ (t.ctrl = s.ctrl ∨ t.ctrl = .busy) ∧
      (t.request = s.request ∨ t.request = none)) ∨
    (n.toNat ≤ 64 ∧ ∃ st e t, st ≠ .ok ∧ readCore w n s = .done st 0 e t ∧ CoreEffect s t ∧ t.rcnt = 0 ∧ t.acc = s.acc ∧
      (∀ held, s.source = .reference held → t.source = .reference []) ∧ t.request = none) ∨
    (n.toNat ≤ 64 ∧ s.rcnt.toNat < n.toNat ∧
      ∃ t, t = issueRequest (refillSize (n.toNat - s.rcnt.toNat)) (takeChunk (enterCore n s)) ∧
        readCore w n s = .waiting t ∧ CoreEffect s t ∧ s.source = .external ∧ ∀ r rest, s.env ≠ .answer r :: rest) ∨
    (n.toNat ≤ 64 ∧ readCore w n s = .broken .malformedAnswer ∧ s.source = .external) := by
  rw [readCore_shape]
  by_cases h64 : 64 < n.toNat
  · exact .inl ⟨h64, if_pos h64⟩
  · rw [if_neg h64]
    have hle64 : n.toNat ≤ 64 := by omega
    have hcf := coreFrame_drain n s
    by_cases hle : n.toNat ≤ s.rcnt.toNat
    · rw [if_pos hle]
      refine .inr (.inl ⟨hle64, _, _, rfl, coreEffect_of_coreFrame hcf (by simp) (by simp) (by simp), by simp, ?_,
          ?_, by simp, by simp⟩)
      · rw [drained_val n s hle64, min_eq_right hle]; exact Nat.mod_lt _ (by positivity)
      · right; rw [takeChunk_rcnt_toNat]; simp
    · rw [if_neg hle, coreRequest]
      have h1 := drained_rem n s
      have h2 := drained_rcnt n s (by omega)
      have hv := drained_val n s hle64
      rw [Nat.sub_eq_zero_of_le (by omega), pow_zero, Nat.div_one, min_eq_left (by omega)] at hv
      have hn : (takeChunk (enterCore n s)).work.n = n := by simp
      have ha : (takeChunk (enterCore n s)).acc = s.acc := by simp
      have hsr : (takeChunk (enterCore n s)).source = s.source := by simp
      have hen : (takeChunk (enterCore n s)).env = s.env := by simp
      have hrq : (takeChunk (enterCore n s)).requests = s.requests := by simp
      have hk1 := refillSize_pos (rem := n.toNat - s.rcnt.toNat) (by omega)
      have hk8 := refillSize_le (rem := n.toNat - s.rcnt.toNat) (by omega)
      have hkl := le_refillSize (n.toNat - s.rcnt.toNat)
      have hku : 8 * refillSize (n.toNat - s.rcnt.toNat) < n.toNat - s.rcnt.toNat + 8 := by unfold refillSize; omega
      generalize takeChunk (enterCore n s) = d at *
      generalize refillSize (n.toNat - s.rcnt.toNat) = k at *
      obtain ⟨cf1,cf2,cf3,cf4,cf5,cf6,cf7,cf8,cf9,cf10,cf11⟩ := hcf
      rcases sourceReadExact_cases k d with ⟨r, s', e, hf, hh⟩ | ⟨e, hs, hne⟩ | ⟨e, hs, _⟩
      · have hcp : CoreEffect s s' := by
          rcases hh with ⟨rest, hs, he, rfl⟩ | ⟨held, hs, hr, rfl⟩
          · refine { toCoreFrame := by constructor <;> simp [*], req := ⟨[k], by simp [hrq], by simp,
              by simp; omega⟩, env := ⟨[r], by simp [← hen, he]⟩, ext := ?_, ref := ?_ }
            · intro _; simpa using hs
            · intro held hh; rw [hsr, hh] at hs; cases hs
          · refine { toCoreFrame := by constructor <;> simp [*], req := ⟨[k], by simp [hrq], by simp,
              by simp; omega⟩, env := ⟨[], by simp [← hen]⟩, ext := ?_, ref := ?_ }
            · intro hh; rw [hsr, hh] at hs; cases hs
            · intro held' hh; rw [hsr, hh] at hs; injection hs with hs; subst hs
              obtain ⟨j, hj⟩ := ref_drop k held'
              exact ⟨j, by simp [hj]⟩
        have hf2 : s'.rcnt = 0 ∧ s'.acc = s.acc ∧ s'.work = d.work ∧ s'.ctrl = .busy ∧ s'.request = none := by
          rcases hh with ⟨rest, hs, he, rfl⟩ | ⟨held, hs, hr, rfl⟩ <;> simp [h2, ha]
        obtain ⟨g1, g2, g3, g4, g5⟩ := hf2
        simp only [e]
        rcases coreAnswer_cases r s' with ⟨bs, rfl, hc⟩ | ⟨st, er, hst, hc, _, hno⟩
        · simp only [SrcResponse.fits, beq_iff_eq] at hf
          have hr1 : (refill bs s').rcnt.toNat = 8 * k := by rw [refill_rcnt_toNat _ (by omega), hf]
          have hm : min (refill bs s').rcnt.toNat (refill bs s').work.rem.toNat = n.toNat - s.rcnt.toNat := by
            rw [hr1, refill_work, g3, h1]; omega
          refine .inr (.inl ⟨hle64, _, _, hc, ?_, by simp [g3, hn], ?_, ?_, by simp [g4], by simp [g5]⟩)
          · obtain ⟨⟨c1,c2,c3,c4,c5,c6,c7,c8,c9,c10,c11⟩, cr, ce, cx, cre⟩ := hcp
            exact
              { toCoreFrame := by constructor <;> simp [*]
                req := by simpa using cr
                env := by simpa using ce
                ext := by simpa using cx
                ref := by simpa using cre }
          · have hvlt : (refill bs s').work.val.toNat < 2 ^ s.rcnt.toNat := by
              rw [refill_work, g3, hv]; exact Nat.mod_lt _ (by positivity)
            rw [takeChunk_val_toNat hvlt (by rw [hm]; omega), hm]
            have h3 : ∀ x, x % 2 ^ (n.toNat - s.rcnt.toNat) < 2 ^ (n.toNat - s.rcnt.toNat) :=
                fun x => Nat.mod_lt _ (by positivity)
            have := fold_lt (h3 ((refill bs s').acc.toNat / 2 ^ ((refill bs s').rcnt.toNat - (refill bs s').work.rem.toNat))) hvlt
            rw [fold_eq (h3 _)] at this
            rwa [show s.rcnt.toNat + (n.toNat - s.rcnt.toNat) = n.toNat by omega] at this
          · left; rw [takeChunk_rcnt_toNat, hr1, refill_work, g3, h1]; omega
        · refine .inr (.inr (.inl ⟨hle64, st, er, s', hst, hc, hcp, g1, g2, ?_, g5⟩))
          intro held hh'
          rcases hh with ⟨rest, hs, he, rfl⟩ | ⟨held, hs, hr, rfl⟩
          · rw [hsr, hh'] at hs; cases hs
          · simp only [takeAnswer_source]
            unfold referenceAnswer at hr ⊢
            split
            · rename_i hk; rw [if_pos hk] at hr; exact absurd hr (hno _)
            · split
              · rename_i h0; simp [List.eq_nil_of_length_eq_zero h0]
              · rfl
      · simp only [e]
        refine .inr (.inr (.inr (.inl ⟨hle64, by omega, _, rfl, rfl, ?_, hsr ▸ hs, hen ▸ hne⟩)))
        refine
          { toCoreFrame := by constructor <;> simp [*]
            req := ⟨[k], by simp [hrq], by simp, by simp; omega⟩
            env := ⟨[], by simp [hen]⟩
            ext := by simp [hsr]
            ref := ?_ }
        intro held hh; rw [hsr, hh] at hs; cases hs
      · simp only [e]
        exact .inr (.inr (.inr (.inr ⟨hle64, trivial, hsr ▸ hs⟩)))

/-- An answer that fits a legal waiting core's request (20_memory R41 step 3). -/
theorem deliver_legal {s : State} {r : SrcResponse} {k : Nat} (hf : s.fault = 0) (hw : Safety.waitLegal s) (hc : s.ctrl = .waitSrc)
    (hk : s.request = some k) (hfit : r.fits k = true) :
    deliverAnswer r s = continueCommand s (coreAnswer r (takeAnswer s)) := by
  obtain ⟨h1, h2, h3, h6, ⟨h4, h5, h7⟩, h8⟩ := hw hc
  have hk' : k = refillSize s.work.rem.toNat := by rw [hk] at h6; injection h6
  rw [deliverAnswer, answerRequest, hk]
  simp only [hf, hc, hfit, and_self, if_true]
  rw [resumeCore_eq]
  · rw [takeAnswer_work, ← hk']; exact hfit
  · rw [takeAnswer_work]; omega

end Sys2Proof.Machine
end

