-- ==== Sys2Proof/Tests/Slice0.lean ====
section
/-! SUPPORT. Tests. The expected values are those of 95_test_vectors, named beside each test, or words written out bit by bit
from 30_encoding. The `witness_` theorems show that the hypotheses of the statements can be met. -/
namespace Sys2Proof.Tests

open Machine Safety

/-! ## WellFormed -/

/-- One element more than COUNT can say (30_encoding R62, R72). -/
theorem test_wellFormed_refuses_too_many_elements :
    (Instr.fields (List.replicate 16384 0x0001#16)).wellFormed = false := by
  rw [Instr.wellFormed, List.length_replicate]; decide

theorem test_wellFormed_takes_as_many_as_count_can_say :
    (Instr.fields (List.replicate 16383 0x0001#16)).wellFormed = true := by
  rw [Instr.wellFormed, List.length_replicate]; decide

/-! ## Decoding: words written out from 30_encoding R61 to R67 -/

/-- OP = 00, RSV = 0000000, WIDTH = 0100001: READ 33 (vector V-R3). -/
theorem test_decode_read : decode [0b00_0000000_0100001#16] = .instr (.read 33) := by decide

/-- OP = 01, COUNT = 2, then two element words of format R: FIELDS 33,31 (vector V-F2). -/
theorem test_decode_fields :
    decode [0b01_00000000000010#16, 0b00_0000000_0100001#16, 0b00_0000000_0011111#16] = .instr (.fields [33, 31]) := by decide

/-- OP = 10, ZERO = 0: INIT. -/
theorem test_decode_init : decode [0b10_00000000000000#16] = .instr .init := by decide

/-- OP = 11 is reserved (vector V-X3). -/
theorem test_decode_reserved_opcode : decode [0b11_00000000000000#16] = .rejected (.reservedOpcode 0xC000#16) := by decide

/-- OP = 00, RSV = 0000001, WIDTH = 65: the reserved bits are reported, not the width (vector V-X4). -/
theorem test_decode_reserved_bits :
    decode [0b00_0000001_1000001#16] = .rejected (.reservedBitsSet 0x00C1#16) := by decide

/-- OP = 10 with W[13:0] not zero (30_encoding R67 case 3). -/
theorem test_decode_init_with_operand :
    decode [0b10_00000000000001#16] = .rejected (.initWithOperand 0x8001#16) := by decide

/-- A header asking for one element, and none or two there; two words without a header (20_memory R55). -/
theorem test_decode_wrong_length :
    decode [0x4001#16] = .rejected .wrongLength ∧ decode [0x4001#16, 0#16, 0#16] = .rejected .wrongLength ∧
    decode [0x8000#16, 0#16] = .rejected .wrongLength ∧ decode [] = .rejected .wrongLength := by decide

/-- Element words: WIDTH as it stands, and the words that are illegal there (30_encoding R67 case 4). -/
theorem test_decode_element :
    decodeElement 0b00_0000000_1111111#16 = some 127 ∧ decodeElement 0x4000#16 = none ∧ decodeElement 0x8000#16 = none ∧
    decodeElement 0xC000#16 = none ∧ decodeElement 0x0080#16 = none ∧ decodeElement 0x2000#16 = none := by decide

/-- The rows of the opcode table, their operand words zero. -/
theorem test_decode_table_words :
    decodeTableWord 16 0x0021 = some (.read 33) ∧ decodeTableWord 16 0x4002 = some (.fields [0, 0]) ∧
    decodeTableWord 16 0x8000 = some .init ∧ decodeTableWord 16 0xC000 = none ∧
    decodeTableWord 48 0x001F_0021_4002 = some (.fields [33, 31]) := by decide

theorem test_placed_word_is_the_next_command :
    nextAction (State.reset.withFetchWord 16 0x8000) = .run .init State.reset := rfl

/-! ## One step on a small state -/

/-- Just after reset, with a reference source. -/
def onSource (bytes : List Byte) : State := { State.reset with source := .reference bytes }

/-- Just after reset, with moves to come. -/
def withMoves (env : List EnvEvent) : State := { State.reset with env := env }

/-- The next state, for a step that gives one. -/
def after : Result → State
  | .next s => s
  | _ => State.reset

/-- Vector V-R3: READ 33 of AA55AA55AA55AA55. -/
theorem test_read_thirty_three_bits :
    (after (exec (.read 33) (onSource [0xAA, 0x55, 0xAA, 0x55, 0xAA, 0x55, 0xAA, 0x55]))).responses =
      [valueResponse .ok 0x154AB54AB#64 none] ∧
    (after (exec (.read 33) (onSource [0xAA, 0x55, 0xAA, 0x55, 0xAA, 0x55, 0xAA, 0x55]))).rcnt = 7 ∧
    (after (exec (.read 33) (onSource [0xAA, 0x55, 0xAA, 0x55, 0xAA, 0x55, 0xAA, 0x55]))).acc = 0xAA55AA55AA#64 := by decide

/-- Example E5: READ 9 of the one byte FF, the first bits lost. -/
theorem test_read_truncated :
    (after (exec (.read 9) (onSource [0xFF]))).responses = [valueResponse .truncated 0 none] ∧
    (after (exec (.read 9) (onSource [0xFF]))).requests = [2] := by decide

/-- Vector V-F2: FIELDS 33,31 of AA55AA55AA55AA55. -/
theorem test_fields_two :
    (after (exec (.fields [33, 31]) (onSource [0xAA, 0x55, 0xAA, 0x55, 0xAA, 0x55, 0xAA, 0x55]))).responses =
      [listResponse .ok [0x154AB54AB#64, 0x2A55AA55#64] none] ∧
    (after (exec (.fields [33, 31]) (onSource [0xAA, 0x55, 0xAA, 0x55, 0xAA, 0x55, 0xAA, 0x55]))).requests = [5, 3] := by decide

/-- Vector V-F5: FIELDS 0,8 of nothing; conflict C2. -/
theorem test_fields_clean_end :
    (after (exec (.fields [0, 8]) (onSource []))).responses = [listResponse .cleanEos [] none] ∧
    (after (exec (.fields [0, 8]) (onSource []))).requests = [1] := by decide

/-- INIT with five residue bits (as in vector V-I1): they are dropped, ACC stays. -/
theorem test_init_drops_the_residue :
    (after (exec .init { onSource [0x55] with acc := 0xAA#64, rcnt := 5 })).rcnt = 0 ∧
    (after (exec .init { onSource [0x55] with acc := 0xAA#64, rcnt := 5 })).acc = 0xAA#64 ∧
    (after (exec .init { onSource [0x55] with acc := 0xAA#64, rcnt := 5 })).responses = [valueResponse .ok 0 none] := by decide

/-! ## Witnesses: states and operands that meet the hypotheses of the statements -/

/-- A READ of 9 bits left waiting for its 2 bytes. -/
def waitingRead : State :=
  { State.reset with ctrl := .waitSrc, request := some 2, requests := [2], cur := some (.read 9),
                     work := { Working.atReset with n := 9, rem := 9 } }

/-- A FIELDS 8,9 left waiting for the 2 bytes of its second field. -/
def waitingFields : State :=
  { State.reset with ctrl := .waitSrc, request := some 2, requests := [1, 2], cur := some (.fields [8, 9]),
                     work := { n := 9, rem := 9, val := 0, k := 2, idx := 2, consumed := 8, results := [0xF1#64] } }

/-- A READ of 9 bits that executes: it has had its 2 bytes, and has taken no bit of them. -/
def executingRead : State :=
  { onSource [] with ctrl := .busy, acc := 0xAA55#64, rcnt := 16, requests := [2], cur := some (.read 9),
                     work := { Working.atReset with n := 9, rem := 9 } }

/-- A FIELDS 8,9 that executes: at the start of its second field. -/
def executingFields : State :=
  { onSource [0x23, 0x45] with ctrl := .busy, acc := 0xF1#64, requests := [1], cur := some (.fields [8, 9]),
                               work := { n := 9, rem := 9, val := 0, k := 2, idx := 2, consumed := 8, results := [0xF1#64] } }

/-- The faulted state after an illegal word. -/
def faulted : State := { State.reset with fault := 1, faultCause := 5, faultInfo := 0xC000#16 }

/-- Three residue bits 101, the bytes 0F and F0 still to come: bit 5 of the stream B5 0F F0. -/
def residueOfThree : State := { onSource [0x0F, 0xF0] with acc := 0xB5#64, rcnt := 3 }

theorem witness_DecodeOfEncodeIsTheCommand :
    (Instr.read 127).wellFormed = true ∧ (Instr.fields [0xFFFF#16]).wellFormed = true ∧ Instr.init.wellFormed = true ∧
    (Instr.fields (List.replicate 16383 0)).wellFormed = true :=
  ⟨by decide, by decide, by decide, by rw [Instr.wellFormed, List.length_replicate]; decide⟩

theorem witness_EncodeOfDecodeIsTheTransaction :
    decode [0x007F#16] = .instr (.read 127) ∧ decode [0x4001#16, 0xFFFF#16] = .instr (.fields [0xFFFF#16]) := by decide

/-- One word for each clause, at the end of its range. -/
theorem witness_WordsDecodeByMatchAndMask :
    0x007F#16 &&& 0xFF80#16 = 0x0000#16 ∧
    (0x7FFF#16 &&& 0xC000#16 = 0x4000#16 ∧ (List.replicate 16383 0#16).length = (0x7FFF#16).toNat % 2 ^ 14) ∧
    (0x4000#16 &&& 0xC000#16 = 0x4000#16 ∧ ([] : List CmdWord).length = (0x4000#16).toNat % 2 ^ 14) ∧
    0x8000#16 &&& 0xFFFF#16 = 0x8000#16 ∧ 0xFFFF#16 &&& 0xC000#16 = 0xC000#16 :=
  ⟨by decide, ⟨by decide, by rw [List.length_replicate]; decide⟩, by decide, by decide, by decide⟩

/-- Every kind of illegal word, and an element word that is none. -/
theorem witness_IllegalWordsAreTheReservedOnes :
    0xFFFF#16 &&& 0xC000#16 = 0xC000#16 ∧ (0x0080#16 &&& 0xC000#16 = 0x0000#16 ∧ 0x0080#16 &&& 0x3F80#16 ≠ 0x0000#16) ∧
    (0x8001#16 &&& 0xC000#16 = 0x8000#16 ∧ 0x8001#16 &&& 0x3FFF#16 ≠ 0x0000#16) ∧ 0x4000#16 &&& 0xC000#16 ≠ 0x0000#16 := by
  decide

/-- 127 and 128, and the longest line of FIELDS. -/
theorem witness_AssembledLinesDecodeToTheirCommands :
    (127 ≤ 127 ∧ 127 < 128) ∧ (List.replicate 16383 127).length ≤ 16383 ∧ ∀ n ∈ List.replicate 16383 127, n ≤ 127 :=
  ⟨by decide, by rw [List.length_replicate], fun _ h => (List.eq_of_mem_replicate h).le⟩

theorem witness_StepRunsTheIssuedCommand :
    running (withMoves [.command [0x8000#16]]) = false ∧
    (withMoves [.command [0x8000#16]]).env = .command [0x8000#16] :: [] ∧ decode [0x8000#16] = .instr .init := by decide

theorem witness_StepRunsThePlacedTableWord : decodeTableWord 16 0x4002 = some (.fields [0, 0]) := by decide

/-- The host could issue READ 64, FIELDS or INIT so. -/
theorem witness_HeldCommandIsLeftExecuting :
    ready (withMoves [.commandHeld [0x0040#16]]) ∧
    (withMoves [.commandHeld [0x0040#16]]).env = .commandHeld [0x0040#16] :: [] ∧
    decode [0x0040#16] = .instr (.read 64) ∧ (64 : Width).toNat ≤ 64 ∧
    decode [0x4001#16, 0xFFFF#16] = .instr (.fields [0xFFFF#16]) ∧ decode [0x8000#16] = .instr .init := by decide

theorem witness_HeldReadAboveSixtyFourFaultsAtOnce :
    ready (withMoves [.commandHeld [encodeWidth 65]]) ∧
    (withMoves [.commandHeld [encodeWidth 65]]).env = .commandHeld [encodeWidth 65] :: [] ∧ 64 < (65 : Width).toNat := by
  decide

theorem witness_IllegalCommandWordEntersTheFaultedState :
    ready (withMoves [.command [0xC000#16]]) ∧ (withMoves [.command [0xC000#16]]).env = .command [0xC000#16] :: [] ∧
    (withMoves [.commandHeld [0xC000#16]]).env = .commandHeld [0xC000#16] :: [] ∧
    decode [0xC000#16] = .rejected (.reservedOpcode 0xC000#16) ∧
    illegalWord (.reservedOpcode 0xC000#16) = some 0xC000#16 := by decide

/-- The faulted state, with a command that is not accepted, and with a reset, the one way out. -/
theorem witness_FaultedStateIsLeftOnlyByReset :
    faulted.fault = 1 ∧ { faulted with env := [.command [0x8000#16]] }.env = .command [0x8000#16] :: [] ∧
    step { faulted with env := [.reset] } = .next State.reset := ⟨rfl, rfl, rfl⟩

theorem witness_ResetAtAnyTimeRestoresTheResetValues :
    { faulted with env := [.reset] }.env = .reset :: [] ∧ { waitingRead with env := [.reset] }.env = .reset :: [] := by decide

/-- A reset that strikes an executing and a waiting READ, and a late answer while a later request is outstanding. -/
theorem witness_ResetAbandonsTheCommandAndItsRequest :
    (({ executingRead with env := [.reset] }).ctrl ≠ .idle ∧ { executingRead with env := [.reset] }.env = .reset :: []) ∧
    ({ waitingRead with env := [.reset] }.ctrl ≠ .idle ∧ { waitingRead with env := [.reset] }.env = .reset :: []) ∧
    { waitingRead with env := [.abandonedAnswer (.ok [1, 2]), .answer .eofZero] }.env =
      .abandonedAnswer (.ok [1, 2]) :: [.answer .eofZero] := by decide

theorem witness_StatusReadReturnsTheFaultRegisters :
    { faulted with env := [.readStatus] }.env = .readStatus :: [] := by decide

theorem witness_BindingChangesOnlyTheSource :
    (withMoves [.bind (.reference [0xAA])]).ctrl = .idle ∧
    (withMoves [.bind (.reference [0xAA])]).env = .bind (.reference [0xAA]) :: [] := by decide

theorem witness_UnansweredRequestHangs : waitingRead.ctrl = .waitSrc ∧ waitingRead.env = [] ∧ waitingRead.fault = 0 := by decide

theorem witness_BrokenHostDutiesAreRefused :
    ({ waitingRead with env := [.command [0x8000#16]] }.fault = 0 ∧
      { waitingRead with env := [.command [0x8000#16]] }.ctrl = .waitSrc) ∧
    (ready (withMoves [.command [0x4001#16]]) ∧ decode [0x4001#16] = .rejected .wrongLength) ∧
    ({ waitingRead with env := [.bind .external] }.ctrl = .waitSrc ∧
      { waitingRead with env := [.bind .external] }.env = .bind .external :: []) ∧
    (running (withMoves [.foreignConsume]) = false ∧ (withMoves [.foreignConsume]).env = .foreignConsume :: []) := by decide

/-- No answer of one byte fits a request for two, nor an end of stream after two of two bytes. -/
theorem witness_BrokenSourceProtocolIsAFault :
    (ready (withMoves [.answer .eofZero]) ∧ (withMoves [.answer .eofZero]).env = .answer .eofZero :: []) ∧
    (waitingRead.fault = 0 ∧ waitingRead.ctrl = .waitSrc ∧ waitingRead.request = some 2 ∧
      SrcResponse.fits 2 (.ok [0xAA]) = false ∧ SrcResponse.fits 2 (.eofPartial 2) = false ∧
      SrcResponse.fits 2 (.eofPartial 0) = false) := by decide

/-- A request that is served, one that finds nothing, one that finds too little. -/
theorem witness_ReferenceSourceAnswersEveryRequest :
    (1 ≤ 2 ∧ 2 ≤ ([0xAA, 0x55] : List Byte).length) ∧ (([] : List Byte) = [] ∧ 1 ≤ 8) ∧
    (0 < ([0xAA] : List Byte).length ∧ ([0xAA] : List Byte).length < 2) := by decide

theorem witness_InitEmptiesTheResidueAndRespondsOk : ready residueOfThree := by decide

/-- Three residue bits at bit 5 of the stream; widths 1 and 64, the ends of the range. -/
theorem witness_InitDiscardsTheResidue :
    ready residueOfThree ∧ (∃ t, exec .init residueOfThree = .next t) ∧
    standsAt [0xB5, 0x0F, 0xF0] 5 residueOfThree ∧
    (∃ u, exec (.read 1) (after (exec .init residueOfThree)) = .next u) ∧
    (∃ u, exec (.fields (encodeWidth 64 :: [])) (after (exec .init residueOfThree)) = .next u) :=
  ⟨by decide, ⟨_, rfl⟩, by unfold standsAt; decide, ⟨_, rfl⟩, ⟨_, rfl⟩⟩

theorem witness_ReadOfWidthZeroIsANoOp : ready residueOfThree := by decide

/-- The whole residue, and nothing of it. -/
theorem witness_ReadServedByTheResidue :
    ready residueOfThree ∧ ((3 : Width).toNat ≤ 64 ∧ (3 : Width).toNat ≤ residueOfThree.rcnt.toNat) ∧
    (0 : Width).toNat ≤ residueOfThree.rcnt.toNat := by decide

/-- 64 bits, of which three are there and 61 take 8 bytes. -/
theorem witness_ReadServedByARefill :
    let s := { withMoves [.answer (.ok [1, 2, 3, 4, 5, 6, 7, 8])] with acc := 0xB5#64, rcnt := 3 }
    ready s ∧ (64 : Width).toNat ≤ 64 ∧ s.rcnt.toNat < (64 : Width).toNat ∧ s.source = .external ∧
    s.env = .answer (.ok [1, 2, 3, 4, 5, 6, 7, 8]) :: [] ∧
    ([1, 2, 3, 4, 5, 6, 7, 8] : List Byte).length = ((64 : Width).toNat - s.rcnt.toNat + 7) / 8 := by decide

/-- Each failure answer, on an empty and on a non-empty residue. -/
theorem witness_ReadEndsOnAFailedRefill :
    (let s := withMoves [.answer .eofZero]
     ready s ∧ s.rcnt.toNat < (1 : Width).toNat ∧ s.source = .external ∧ s.env = .answer .eofZero :: [] ∧
     SrcResponse.fits (((1 : Width).toNat - s.rcnt.toNat + 7) / 8) .eofZero = true ∧
     failureOf s.rcnt.toNat .eofZero = some (.cleanEos, none)) ∧
    (let s := { withMoves [.answer (.eofPartial 7)] with acc := 0xB5#64, rcnt := 3 }
     ready s ∧ s.rcnt.toNat < (64 : Width).toNat ∧ s.source = .external ∧ s.env = .answer (.eofPartial 7) :: [] ∧
     SrcResponse.fits (((64 : Width).toNat - s.rcnt.toNat + 7) / 8) (.eofPartial 7) = true ∧
     failureOf s.rcnt.toNat (.eofPartial 7) = some (.truncated, none)) ∧
    (let s := withMoves [.answer (.ioError Config.someSrcErr)]
     ready s ∧ s.rcnt.toNat < (1 : Width).toNat ∧ s.source = .external ∧ s.env = .answer (.ioError Config.someSrcErr) :: [] ∧
     SrcResponse.fits (((1 : Width).toNat - s.rcnt.toNat + 7) / 8) (.ioError Config.someSrcErr) = true ∧
     failureOf s.rcnt.toNat (.ioError Config.someSrcErr) = some (.sourceError, some Config.someSrcErr)) := by decide

theorem witness_ReadWaitsForTheSource :
    ready State.reset ∧ (9 : Width).toNat ≤ 64 ∧ State.reset.rcnt.toNat < (9 : Width).toNat ∧
    State.reset.source = .external ∧ ∀ r rest, State.reset.env ≠ .answer r :: rest :=
  ⟨by decide, by decide, by decide, by decide, fun _ _ h => nomatch h⟩

/-- The smallest and the largest width above 64. -/
theorem witness_ReadAboveSixtyFourEntersTheFaultedState :
    ready residueOfThree ∧ 64 < (65 : Width).toNat ∧ 64 < (127 : Width).toNat := by decide

/-- The last 19 bits of the stream; none of it. -/
theorem witness_ReadDeliversTheFieldOfTheStream :
    ready residueOfThree ∧ standsAt [0xB5, 0x0F, 0xF0] 5 residueOfThree ∧
    ((19 : Width).toNat ≤ 64 ∧ 5 + (19 : Width).toNat ≤ 8 * ([0xB5, 0x0F, 0xF0] : List Byte).length) ∧
    5 + (0 : Width).toNat ≤ 8 * ([0xB5, 0x0F, 0xF0] : List Byte).length :=
  ⟨by decide, by unfold standsAt; decide, by decide, by decide⟩

/-- One bit too many, and a bit at the very end. -/
theorem witness_ReadPastTheEndOfTheStream :
    (ready residueOfThree ∧ standsAt [0xB5, 0x0F, 0xF0] 5 residueOfThree ∧
      8 * ([0xB5, 0x0F, 0xF0] : List Byte).length < 5 + (20 : Width).toNat) ∧
    (ready (onSource []) ∧ standsAt [0xB5] 8 (onSource []) ∧ 8 * ([0xB5] : List Byte).length < 8 + (1 : Width).toNat) :=
  ⟨⟨by decide, by unfold standsAt; decide, by decide⟩, by decide, by unfold standsAt; decide, by decide⟩

theorem witness_ReadsReproduceTheStream :
    ready residueOfThree ∧ standsAt [0xB5, 0x0F, 0xF0] 5 residueOfThree ∧ (∀ n ∈ ([1, 0, 18] : List Width), n.toNat ≤ 64) ∧
    5 + (([1, 0, 18] : List Width).map BitVec.toNat).sum ≤ 8 * ([0xB5, 0x0F, 0xF0] : List Byte).length :=
  ⟨by decide, by unfold standsAt; decide, by decide, by decide⟩

/-- The loop in the middle of a field, the loop taking 64 bits at once, and a ReadCore that returns. -/
theorem witness_FoldNeverOverflows :
    (let s := { residueOfThree with work := { Working.atReset with n := 9, rem := 8, val := 1 } }
     s.work.rem.toNat ≤ s.work.n.toNat ∧ s.work.n.toNat ≤ 64 ∧
     s.work.val.toNat < 2 ^ (s.work.n.toNat - s.work.rem.toNat)) ∧
    (let s := { State.reset with rcnt := 64, work := { Working.atReset with n := 64, rem := 64 } }
     s.work.rem.toNat ≤ s.work.n.toNat ∧ s.work.n.toNat ≤ 64 ∧
     s.work.val.toNat < 2 ^ (s.work.n.toNat - s.work.rem.toNat) ∧ min s.rcnt.toNat s.work.rem.toNat = 64) ∧
    ∃ st v e t, readCore 0x0013#16 19 residueOfThree = .done st v e t :=
  ⟨by decide, by decide, _, _, _, _, rfl⟩

theorem witness_FailedReadCoreLosesTheResidue :
    (∃ v e t, readCore 0x0014#16 20 residueOfThree = .done .truncated v e t) ∧ Status.truncated ≠ .ok ∧
    residueOfThree.source = .reference [0x0F, 0xF0] := ⟨⟨_, _, _, rfl⟩, by decide, rfl⟩

theorem witness_FieldsOfNoElementChangesNothing : ready residueOfThree := by decide

theorem witness_FieldsDeliverTheFieldsOfTheStream :
    ready residueOfThree ∧ standsAt [0xB5, 0x0F, 0xF0] 5 residueOfThree ∧ (∀ n ∈ ([1, 0, 18] : List Width), n.toNat ≤ 64) ∧
    5 + (([1, 0, 18] : List Width).map BitVec.toNat).sum ≤ 8 * ([0xB5, 0x0F, 0xF0] : List Byte).length :=
  ⟨by decide, by unfold standsAt; decide, by decide, by decide⟩

theorem witness_FieldsPastTheEndOfTheStream :
    (ready residueOfThree ∧ standsAt [0xB5, 0x0F, 0xF0] 5 residueOfThree ∧ (∀ n ∈ ([18, 2] : List Width), n.toNat ≤ 64) ∧
      8 * ([0xB5, 0x0F, 0xF0] : List Byte).length < 5 + (([18, 2] : List Width).map BitVec.toNat).sum) ∧
    (ready (onSource []) ∧ standsAt [0xB5] 8 (onSource []) ∧ (∀ n ∈ ([0, 8] : List Width), n.toNat ≤ 64) ∧
      8 * ([0xB5] : List Byte).length < 8 + (([0, 8] : List Width).map BitVec.toNat).sum) :=
  ⟨⟨by decide, by unfold standsAt; decide, by decide, by decide⟩, by decide, by unfold standsAt; decide, by decide, by decide⟩

/-- An element word with a wrong opcode, and the word of width 65. -/
theorem witness_FieldsFaultAtTheElementReached :
    ready residueOfThree ∧ standsAt [0xB5, 0x0F, 0xF0] 5 residueOfThree ∧ (∀ n ∈ ([19] : List Width), n.toNat ≤ 64) ∧
    5 + (([19] : List Width).map BitVec.toNat).sum ≤ 8 * ([0xB5, 0x0F, 0xF0] : List Byte).length ∧
    (∀ n, decodeElement 0x4000#16 = some n → 64 < n.toNat) ∧ (∀ n, decodeElement 0x0041#16 = some n → 64 < n.toNat) :=
  ⟨by decide, by unfold standsAt; decide, by decide, by decide, by decide, by decide⟩

theorem witness_FieldsEqualTheirReads :
    ready residueOfThree ∧ ∃ t, exec (.fields [0x0003#16, 0x0010#16]) residueOfThree = .next t ∧
      t.responses = residueOfThree.responses ++ [listResponse .ok [0x5#64, 0x0FF0#64] none] :=
  ⟨by decide, _, rfl, by decide⟩

theorem witness_CommandsEndOnAReferenceSource :
    ready residueOfThree ∧ residueOfThree.source = .reference [0x0F, 0xF0] := by decide

theorem witness_CommandsIssueFewSmallRequests :
    ready residueOfThree ∧ (∃ t, exec (.read 19) residueOfThree = .next t) ∧
    (∃ t, exec (.fields [0x0003#16, 0x0010#16]) residueOfThree = .next t) ∧ ∃ t, exec .init residueOfThree = .next t :=
  ⟨by decide, ⟨_, rfl⟩, ⟨_, rfl⟩, _, rfl⟩

/-- A command that responds, one that faults, one that waits. -/
theorem witness_CommandsKeepTheirFrame :
    (∃ t, exec (.read 19) residueOfThree = .next t) ∧ (∃ t, exec (.read 65) residueOfThree = .next t) ∧
    ∃ t, exec (.fields [0x0008#16]) State.reset = .next t := ⟨⟨_, rfl⟩, ⟨_, rfl⟩, _, rfl⟩

/-- The invariant does not speak of the moves to come. -/
theorem legal_with_moves {s : State} (h : Inv s) (env : List EnvEvent) : Inv { s with env := env } :=
  ⟨h.faults, h.requests, h.boundary, h.wait, h.busy⟩

theorem issuedInit_legal : Inv (withMoves [.command [0x8000#16]]) :=
  ⟨.inl ⟨rfl, rfl, rfl⟩, by decide, fun _ => ⟨by decide, rfl, rfl⟩, fun h => (nomatch h), fun h => nomatch h⟩

theorem waitingRead_legal (env : List EnvEvent) : Inv { waitingRead with env := env } :=
  legal_with_moves (s := waitingRead) ⟨.inl ⟨rfl, rfl, rfl⟩, by decide, fun h => (nomatch h),
    fun _ => ⟨rfl, rfl, by decide, rfl, by decide, rfl⟩, fun h => nomatch h⟩ env

theorem waitingFields_legal (env : List EnvEvent) : Inv { waitingFields with env := env } :=
  legal_with_moves (s := waitingFields) ⟨.inl ⟨rfl, rfl, rfl⟩, by decide, fun h => (nomatch h),
    fun _ => ⟨rfl, rfl, by decide, rfl, by decide, ⟨by decide, rfl, by decide, rfl, rfl, by decide⟩⟩,
    fun h => nomatch h⟩ env

theorem executingRead_legal (env : List EnvEvent) : Inv { executingRead with env := env } :=
  legal_with_moves (s := executingRead) ⟨.inl ⟨rfl, rfl, rfl⟩, by decide, fun h => (nomatch h), fun h => (nomatch h),
    fun _ => ⟨rfl, rfl, by decide, by decide⟩⟩ env

theorem executingFields_legal (env : List EnvEvent) : Inv { executingFields with env := env } :=
  legal_with_moves (s := executingFields) ⟨.inl ⟨rfl, rfl, rfl⟩, by decide, fun h => (nomatch h), fun h => (nomatch h),
    fun _ => ⟨rfl, .inr ⟨⟨by decide, rfl, by decide, rfl, rfl, by decide⟩, by decide, by decide⟩⟩⟩ env

/-- A command that ends at once, and one that ends on a failure answer. -/
theorem witness_ResponsesLeaveTheCoreReady :
    (Inv (withMoves [.command [0x8000#16]]) ∧ ∃ t, step (withMoves [.command [0x8000#16]]) = .next t ∧
      t.responses ≠ (withMoves [.command [0x8000#16]]).responses) ∧
    (Inv { waitingRead with env := [.answer .eofZero] } ∧
      ∃ t, step { waitingRead with env := [.answer .eofZero] } = .next t ∧ t.responses ≠ waitingRead.responses) :=
  ⟨⟨issuedInit_legal, _, rfl, by decide⟩, waitingRead_legal _, _, rfl, by decide⟩

/-- A waiting READ and a waiting FIELDS. -/
theorem witness_WaitingCommandEndsOnAFailure :
    (Inv { waitingRead with env := [.answer .eofZero] } ∧ waitingRead.ctrl = .waitSrc ∧ waitingRead.request = some 2 ∧
      SrcResponse.fits 2 .eofZero = true ∧ waitingRead.cur = some (.read 9) ∧
      failureOf (waitingRead.work.n.toNat - waitingRead.work.rem.toNat) .eofZero = some (.cleanEos, none)) ∧
    (Inv { waitingFields with env := [.answer (.ioError Config.someSrcErr)] } ∧ waitingFields.ctrl = .waitSrc ∧
      waitingFields.request = some 2 ∧ SrcResponse.fits 2 (.ioError Config.someSrcErr) = true ∧ waitingFields.cur = some (.fields [8, 9]) ∧
      failureOf (waitingFields.work.n.toNat - waitingFields.work.rem.toNat) (.ioError Config.someSrcErr) = some (.sourceError, some Config.someSrcErr)) :=
  ⟨⟨waitingRead_legal _, by decide⟩, waitingFields_legal _, by decide⟩

/-- A READ and a FIELDS that are left waiting, and a FIELDS that is left waiting at its second request. -/
theorem witness_WaitingIsTransparent :
    (Instr.read 9).wellFormed = true ∧ (Instr.fields [0x0000#16, 0x0008#16]).wellFormed = true ∧ ready State.reset ∧
    (∃ t, exec (.read 9) { State.reset with env := ([] : List SrcResponse).map .answer } = .next t ∧ t.ctrl = .waitSrc) ∧
    (∃ t, exec (.fields [0x0000#16, 0x0008#16]) { State.reset with env := ([] : List SrcResponse).map .answer } = .next t ∧
      t.ctrl = .waitSrc) ∧
    ((Instr.fields [0x0008#16, 0x0009#16]).wellFormed = true ∧
      ∃ t, exec (.fields [0x0008#16, 0x0009#16]) { State.reset with env := [.ok [0xF1]].map .answer } = .next t ∧
        t.ctrl = .waitSrc ∧ t.requests = [1, 2]) :=
  ⟨by decide, by decide, by decide, ⟨_, rfl, by decide⟩, ⟨_, rfl, by decide⟩, by decide, _, rfl, by decide⟩

/-- A held READ, a turn of a READ and of a FIELDS, and an answer that is held: a refill, and a failure. -/
theorem witness_ExecutingIsTransparent :
    (ready (withMoves [.commandHeld [0x0009#16], .bind .external]) ∧ decode [0x0009#16] = .instr (.read 9) ∧
      (∃ t, step (withMoves [.commandHeld [0x0009#16], .bind .external]) = .next t ∧ t.ctrl = .busy) ∧
      atAnyTime (.bind .external) = false) ∧
    (Inv { executingRead with env := [.turn] } ∧ { executingRead with env := [.turn] }.ctrl = .busy ∧
      ∃ t, step { executingRead with env := [.turn] } = .next t ∧ t.ctrl = .busy) ∧
    (Inv { executingFields with env := [.turn] } ∧ { executingFields with env := [.turn] }.ctrl = .busy ∧
      ∃ t, step { executingFields with env := [.turn] } = .next t) ∧
    (Inv { waitingRead with env := [.answerHeld (.ok [1, 2])] } ∧ waitingRead.ctrl = .waitSrc ∧
      ∃ t, step { waitingRead with env := [.answerHeld (.ok [1, 2])] } = .next t ∧ t.ctrl = .busy) ∧
    (Inv { waitingRead with env := [.answerHeld .eofZero] } ∧
      ∃ t, step { waitingRead with env := [.answerHeld .eofZero] } = .next t ∧ t.ctrl = .idle) :=
  ⟨⟨by decide, by decide, ⟨_, rfl, rfl⟩, rfl⟩, ⟨executingRead_legal _, rfl, _, rfl, rfl⟩, ⟨executingFields_legal _, rfl, _, rfl⟩,
    ⟨waitingRead_legal _, rfl, _, rfl, rfl⟩, waitingRead_legal _, _, rfl, rfl⟩

theorem witness_ExecutingCommandRunsOn :
    running executingRead = true ∧ (∀ e rest, executingRead.env = e :: rest → atAnyTime e = false) ∧
    running { executingRead with env := [.command [0x8000#16]] } = true ∧ atAnyTime (.command [0x8000#16]) = false :=
  ⟨rfl, fun _ _ h => (nomatch h), rfl, rfl⟩

/-- A command that responds, one that is lost to a fault, one that is lost to a reset. -/
theorem witness_EveryCommandRespondsOnceOrIsLost :
    (Inv (withMoves [.command [0x8000#16]]) ∧ ∃ t, step (withMoves [.command [0x8000#16]]) = .next t ∧
      losesACommand (withMoves [.command [0x8000#16]]) t = false) ∧
    (Inv (withMoves [.command [0xC000#16]]) ∧ ∃ t, step (withMoves [.command [0xC000#16]]) = .next t ∧
      losesACommand (withMoves [.command [0xC000#16]]) t = true) ∧
    (Inv { executingRead with env := [.reset] } ∧ ∃ t, step { executingRead with env := [.reset] } = .next t ∧
      losesACommand { executingRead with env := [.reset] } t = true) :=
  ⟨⟨issuedInit_legal, _, rfl, by decide⟩, ⟨legal_with_moves issuedInit_legal _, _, rfl, by decide⟩,
    executingRead_legal _, _, rfl, by decide⟩

/-- READ 3, FIELDS 8,5, and an illegal word. -/
theorem witness_CommandListsRunToAnEnd :
    let wss : List (List CmdWord) := [[0x0003#16], [0x4002#16, 0x0008#16, 0x0005#16], [0xC000#16]]
    let s := { onSource [0xB5, 0x0F] with env := wss.map .command }
    ready s ∧ s.cur = none ∧ s.source = .reference [0xB5, 0x0F] ∧ s.env = wss.map .command ∧
    ∀ ws ∈ wss, decode ws ≠ .rejected .wrongLength := by decide

theorem test_complete_run :
    (let s := { onSource [0xB5] with env := [.command [0x0003#16], .command [0x8000#16]] }
     runEnd s (after (runSteps 2 s)) = some .complete) ∧
    (let s := { onSource [0xB5] with env := [.commandHeld [0x0003#16], .reset, .command [0x8000#16]] }
     runEnd s (after (runSteps 3 s)) = none) := by decide

/-- Two READs on an external source, and a third element that is illegal, too wide, fails, or waits. -/
def answeredTwice (more : List EnvEvent) : State := withMoves (.answer (.ok [0xF1]) :: .answer (.ok [0x23, 0x45]) :: more)

theorem witness_FieldsCompleteAsTheirReads :
    ready (answeredTwice []) ∧ ([0xF1#64, 0x46#64] : List Word64).length = ([8, 9] : List Width).length ∧
    ∃ u, runCommands ([8, 9].map .read) (answeredTwice []) = .next u ∧
      respondedOk (answeredTwice []) u [0xF1#64, 0x46#64] := ⟨by decide, rfl, _, rfl, by decide⟩

theorem witness_FieldsFaultAfterTheirReads :
    ready (answeredTwice []) ∧ ([0xF1#64, 0x46#64] : List Word64).length = ([8, 9] : List Width).length ∧
    (∀ n, decodeElement 0x4000#16 = some n → 64 < n.toNat) ∧ (∀ n, decodeElement 0x0041#16 = some n → 64 < n.toNat) ∧
    ∃ u, runCommands ([8, 9].map .read) (answeredTwice []) = .next u ∧
      respondedOk (answeredTwice []) u [0xF1#64, 0x46#64] := ⟨by decide, rfl, by decide, by decide, _, rfl, by decide⟩

/-- The third element meets an error of the source, and one the end of the stream. -/
theorem witness_FieldsFailAfterTheirReads :
    (let s := answeredTwice [.answer (.ioError Config.someSrcErr)]
     ready s ∧ ∃ u z, runCommands ([8, 9].map .read) s = .next u ∧ respondedOk s u [0xF1#64, 0x46#64] ∧
       exec (.read 8) u = .next z ∧
       z.responses = u.responses ++ [valueResponse .sourceError 0 (some Config.someSrcErr)]) ∧
    (let s := withMoves [.answer .eofZero]
     ready s ∧ ∃ u z, runCommands ([0].map .read) s = .next u ∧ respondedOk s u [0#64] ∧
       exec (.read 8) u = .next z ∧ z.responses = u.responses ++ [valueResponse .cleanEos 0 none]) :=
  ⟨⟨by decide, _, _, rfl, by decide, rfl, by decide⟩, by decide, _, _, rfl, by decide, rfl, by decide⟩

theorem witness_FieldsWaitAsTheirReads :
    (Instr.fields ([8, 9].map encodeWidth ++ encodeWidth 8 :: [])).wellFormed = true ∧ ready (answeredTwice []) ∧
    ∃ u z, runCommands ([8, 9].map .read) (answeredTwice []) = .next u ∧
      respondedOk (answeredTwice []) u [0xF1#64, 0x46#64] ∧ exec (.read 8) u = .next z ∧ z.ctrl = .waitSrc :=
  ⟨by decide, by decide, _, _, rfl, by decide, rfl, by decide⟩

/-- At a boundary, while waiting, and while executing. -/
theorem witness_StepKeepsTheInvariant :
    (Inv (withMoves [.command [0x0009#16]]) ∧ ∃ t, step (withMoves [.command [0x0009#16]]) = .next t) ∧
    (Inv { waitingFields with env := [.answer (.ok [1, 2])] } ∧
      ∃ t, step { waitingFields with env := [.answer (.ok [1, 2])] } = .next t) ∧
    (Inv { executingFields with env := [.turn] } ∧ ∃ t, step { executingFields with env := [.turn] } = .next t) :=
  ⟨⟨legal_with_moves issuedInit_legal _, _, rfl⟩, ⟨waitingFields_legal _, _, rfl⟩, executingFields_legal _, _, rfl⟩

/-- Two states that differ in the stale bit 3 only. -/
theorem witness_StaleAccumulatorBitsAreNeverObserved :
    dropStale residueOfThree = dropStale { residueOfThree with acc := 0xBD#64 } ∧
    residueOfThree ≠ { residueOfThree with acc := 0xBD#64 } := by decide

theorem witness_WorkingRegistersAreNotObservable : ready residueOfThree := by decide

end Sys2Proof.Tests
end

section
/-! Waiting is transparent: moves that come after the ones a command takes, and the answer that comes once it waits
(20_memory R41, R49). -/
namespace Sys2Proof.Machine
open Safety

/-! ## More moves to come -/

/-- The state with `more` after the moves to come. -/
def addMoves (more : List EnvEvent) (s : State) : State := { s with env := s.env ++ more }

/-- What a ReadCore came to, with `more` after the moves to come. -/
def CoreResult.addMoves (more : List EnvEvent) : CoreResult → CoreResult
  | .done st v e s => .done st v e (Machine.addMoves more s)
  | .waiting s => .waiting (Machine.addMoves more s)
  | .raised s => .raised (Machine.addMoves more s)
  | .broken f => .broken f

theorem addMoves_of_env_nil {s : State} (h : s.env = []) (more : List EnvEvent) :
    addMoves more s = { s with env := more } := by simp [addMoves, h]

theorem coreAnswer_addMoves (r : SrcResponse) (s : State) (more : List EnvEvent) :
    coreAnswer r (addMoves more s) = (coreAnswer r s).addMoves more := by
  cases r <;> rfl

/-- The reference source answers the one request of a ReadCore at once (20_memory R57). -/
theorem coreRequest_reference {s : State} {held : List Byte} (k : Nat) (hs : s.source = .reference held) :
    coreRequest k s = coreAnswer (referenceAnswer k held).1
      (takeAnswer { issueRequest k s with source := .reference (referenceAnswer k held).2 }) := by
  simp only [coreRequest, sourceReadExact, hs]

/-- The one request of a ReadCore, its answer being the next move (20_memory R41, R42). -/
theorem coreRequest_answer {s : State} {r : SrcResponse} {rest : List EnvEvent} (k : Nat) (hs : s.source = .external)
    (he : s.env = .answer r :: rest) :
    coreRequest k s =
      if r.fits k then coreAnswer r (takeAnswer { issueRequest k s with env := rest }) else .broken .malformedAnswer := by
  simp only [coreRequest, sourceReadExact, hs, he]
  by_cases hf : r.fits k = true <;> simp [hf]

/-- A request that is answered takes no notice of the moves after its answer. -/
theorem coreRequest_addMoves {k : Nat} {s : State} (more : List EnvEvent) (h : ∀ t, coreRequest k s ≠ .waiting t) :
    coreRequest k (addMoves more s) = (coreRequest k s).addMoves more := by
  rcases sourceReadExact_cases k s with
    ⟨r, _, _, hfit, ⟨rest, hs, he, _⟩ | ⟨held, hs, _, _⟩⟩ | ⟨e, _⟩ | ⟨_, hs, r, rest, he, hfit⟩
  · have hmore : (addMoves more s).env = .answer r :: (rest ++ more) := by simp [addMoves, he]
    rw [coreRequest_answer k hs he, coreRequest_answer (s := addMoves more s) k hs hmore,
      if_pos hfit, if_pos hfit, ← coreAnswer_addMoves]
    rfl
  · rw [coreRequest_reference k hs, coreRequest_reference (s := addMoves more s) k hs, ← coreAnswer_addMoves]
    rfl
  · exact absurd (by rw [coreRequest, e]) (h (issueRequest k s))
  · have hmore : (addMoves more s).env = .answer r :: (rest ++ more) := by simp [addMoves, he]
    rw [coreRequest_answer k hs he, coreRequest_answer (s := addMoves more s) k hs hmore]
    simp [hfit, CoreResult.addMoves]

/-- A ReadCore that does not wait takes no notice of the moves after its answer. -/
theorem readCore_addMoves {w : CmdWord} {n : Width} {s : State} (more : List EnvEvent)
    (h : ∀ t, readCore w n s ≠ .waiting t) :
    readCore w n (addMoves more s) = (readCore w n s).addMoves more := by
  have hr : (addMoves more s).rcnt = s.rcnt := rfl
  rw [readCore_shape] at h
  rw [readCore_shape, readCore_shape, hr]
  by_cases h64 : 64 < n.toNat
  · rw [if_pos h64, if_pos h64]; rfl
  · by_cases hle : n.toNat ≤ s.rcnt.toNat
    · simp only [if_neg h64, if_pos hle]; rfl
    · simp only [if_neg h64, if_neg hle] at h ⊢
      exact coreRequest_addMoves more h

/-! ## The answer to a waiting command -/

/-- A ReadCore that was left waiting and is answered goes on as if the answer had been the next move, whatever is made of its
result, and whether or not the answer fits. -/
theorem readCore_answered_later {w : CmdWord} {n : Width} {s t : State} (r : SrcResponse) (rest : List EnvEvent)
    {finish : CoreResult → Result} (hw : readCore w n s = .waiting t) (hf : s.fault = 0)
    (hfin : ∀ f, finish (.broken f) = .fault f) :
    answerRequest r { t with env := rest } (fun u => finish (resumeCore r u)) =
      finish (readCore w n { s with env := .answer r :: rest }) := by
  rcases readCore_cases w n s with ⟨_, e⟩ | ⟨_, _, _, e, _⟩ | ⟨_, _, _, _, _, e, _⟩ | ⟨h64, hlt, _, rfl, e, _, hs, _⟩ | ⟨_, e, _⟩
  case inr.inr.inr.inl =>
    obtain rfl : issueRequest _ _ = t := by rw [e] at hw; exact CoreResult.waiting.inj hw
    rw [readCore_shape, if_neg (by omega), if_neg (by simpa using hlt),
      coreRequest_answer (s := takeChunk (enterCore n { s with env := .answer r :: rest })) (r := r) (rest := rest) _ hs rfl]
    by_cases hfit : r.fits (refillSize (n.toNat - s.rcnt.toNat)) = true
    · simp only [answerRequest, issueRequest_request, issueRequest_fault, takeChunk_fault, enterCore_fault, hf,
        issueRequest_ctrl, and_self, if_true, if_pos hfit]
      rw [resumeCore_eq]
      · rfl
      · simp only [takeAnswer_work, issueRequest_work, drained_rem, hfit]
      · simp only [takeAnswer_work, issueRequest_work, drained_rem]; omega
    · simp [answerRequest, hf, hfit, hfin]
  all_goals rw [e] at hw; cases hw

/-- An answer to a waiting READ ends that READ. -/
theorem deliverAnswer_read {s : State} {n : Width} (hc : s.cur = some (.read n)) (r : SrcResponse) :
    deliverAnswer r s = answerRequest r s fun u => finishRead (resumeCore r u) := by
  simp only [deliverAnswer, continueCommand, hc]

/-- An answer to a waiting FIELDS ends the element that IDX names, and the batch goes on. -/
theorem deliverAnswer_fields {s : State} {es : List CmdWord} (hc : s.cur = some (.fields es)) (r : SrcResponse) :
    deliverAnswer r s =
      answerRequest r s fun u => afterElement (resumeCore r u) (fieldsLoop (es.drop s.work.idx.toNat)) := by
  simp only [deliverAnswer, continueCommand, hc]

/-- An element that ended with a status other than OK ends the batch (42_read_fields R123, R124). -/
theorem afterElement_failed {st : Status} (h : st ≠ .ok) (v : Word64) (e : Option Config.SrcErr) (s : State)
    (goOn : State → Result) :
    afterElement (.done st v e s) goOn = .next (respond (listResponse (batchStatus s.work.consumed st) [] e) s) := by
  cases st with
  | ok => exact absurd rfl h
  | cleanEos => rfl
  | truncated => rfl
  | sourceError => rfl

/-- One turn of a batch: an element word that decodes (42_read_fields R121, R122). -/
theorem fieldsLoop_cons {w : CmdWord} {n : Width} (hd : decodeElement w = some n) (es : List CmdWord) (s : State) :
    fieldsLoop (w :: es) s = afterElement (readCore w n (nextElement s)) (fieldsLoop es) := by
  simp only [fieldsLoop, hd]

/-- An element word that is illegal (42_read_fields R122). -/
theorem fieldsLoop_illegal {w : CmdWord} (hd : decodeElement w = none) (es : List CmdWord) (s : State) :
    fieldsLoop (w :: es) s = .next (raiseFatal .illegalCommand w (nextElement s)) := by
  simp only [fieldsLoop, hd]

/-- Where element IDX + 1 of a batch is to come, IDX can count it: it has 14 bits (10_state R29, 30_encoding R62). -/
theorem idx_succ_toNat {all es : List CmdWord} {w : CmdWord} {idx : BitVec 14} (hlen : all.length ≤ Config.maxCount)
    (h : all.drop idx.toNat = w :: es) : (idx + 1).toNat = idx.toNat + 1 ∧ all.drop (idx + 1).toNat = es := by
  have hlt : idx.toNat < all.length := by
    by_contra hge
    rw [List.drop_eq_nil_of_le (by omega)] at h; cases h
  have hs : (idx + 1).toNat = idx.toNat + 1 := by
    simp only [Config.maxCount] at hlen
    rw [BitVec.toNat_add]; exact Nat.mod_eq_of_lt (by simp; omega)
  exact ⟨hs, by rw [hs, ← List.drop_drop, h, List.drop_one, List.tail_cons]⟩

/-- Answers of which none is the next move are none. -/
theorem eq_nil_of_no_answer_next {env : List EnvEvent} (h : ∃ as : List SrcResponse, env = as.map .answer)
    (hne : ∀ r rest, env ≠ .answer r :: rest) : env = [] := by
  obtain ⟨as, rfl⟩ := h
  cases as with
  | nil => rfl
  | cons a as => exact absurd rfl (hne a _)

/-- A READ that was left waiting is answered as if the answer had been the next move. -/
theorem read_answered_later {n : Width} {s t : State} (r : SrcResponse) (rest : List EnvEvent) (hr : ready s)
    (he : exec (.read n) s = .next t) (ht : t.ctrl = .waitSrc) (henv : ∃ as : List SrcResponse, s.env = as.map .answer) :
    deliverAnswer r { t with env := rest } = exec (.read n) (addMoves (.answer r :: rest) s) := by
  rw [exec_read_ready hr] at he
  rw [exec_read_ready (s := addMoves _ s) hr]
  rcases readCore_cases (encodeWidth n) n (begin (.read n) s) with
    ⟨_, e⟩ | ⟨_, _, _, e, _⟩ | ⟨_, _, _, _, _, e, _⟩ | ⟨_, _, u, _, e, hu, _, hne⟩ | ⟨_, e, _⟩ <;>
    rw [e] at he <;> cases he
  case inr.inr.inr.inl =>
    rw [deliverAnswer_read (s := { t with env := rest }) (n := n) hu.cur,
      readCore_answered_later (finish := finishRead) r rest e hr.1 (fun _ => rfl),
      addMoves_of_env_nil (eq_nil_of_no_answer_next henv hne)]
    rfl
  all_goals cases ht

/-- A batch that was left waiting, at whichever of its elements, is answered as if the answer had been the next move. -/
theorem fieldsLoop_answered_later {all : List CmdWord} (hlen : all.length ≤ Config.maxCount) (r : SrcResponse)
    (rest : List EnvEvent) {t : State} (ht : t.ctrl = .waitSrc) (es : List CmdWord) :
    ∀ s : State, s.fault = 0 → s.cur = some (.fields all) → all.drop s.work.idx.toNat = es →
      (∃ as : List SrcResponse, s.env = as.map .answer) → fieldsLoop es s = .next t →
      deliverAnswer r { t with env := rest } = fieldsLoop es (addMoves (.answer r :: rest) s) := by
  induction es with
  | nil => rintro s - - - - he; cases he; cases ht
  | cons w es ih =>
    intro s hf hc hdrop henv he
    obtain ⟨_, hdrop'⟩ := idx_succ_toNat hlen hdrop
    cases hd : decodeElement w with
    | none => rw [fieldsLoop_illegal hd] at he; cases he; cases ht
    | some n =>
      rw [fieldsLoop_cons hd] at he
      rw [fieldsLoop_cons hd]
      show _ = afterElement (readCore w n (addMoves _ (nextElement s))) _
      rcases readCore_cases w n (nextElement s) with
        ⟨_, e⟩ | ⟨_, v, u, e, hu, _⟩ | ⟨_, st, er, u, hst, e, _⟩ | ⟨_, _, u, _, e, hu, _, hne⟩ | ⟨_, e, _⟩
      · rw [e] at he; cases he; cases ht
      · -- the element is delivered: what follows is a batch again, and the moves of its own answers are gone
        rw [e] at he
        rw [readCore_addMoves _ (by simp [e]), e]
        have henv' : ∃ bs : List SrcResponse, u.env = bs.map .answer := by
          obtain ⟨as, has⟩ := henv
          obtain ⟨_, hu'⟩ := hu.env
          obtain ⟨_, bs, _, _, hbs⟩ := List.map_eq_append_iff.mp (has.symm.trans hu')
          exact ⟨bs, hbs.symm⟩
        refine ih (recordField v u) (hu.fault.trans hf) (hu.cur.trans hc) ?_ henv' he
        rw [recordField_idx, hu.idx, nextElement_idx, hdrop']
      · rw [e, afterElement_failed hst] at he; cases he; cases ht
      · rw [e] at he
        cases he
        rw [deliverAnswer_fields (s := { t with env := rest }) (es := all) (hu.cur.trans hc)]
        show answerRequest r _ (fun x => afterElement (resumeCore r x) (fieldsLoop (all.drop t.work.idx.toNat))) = _
        rw [hu.idx, nextElement_idx, hdrop',
          readCore_answered_later (finish := fun res => afterElement res (fieldsLoop es)) r rest e hf (fun _ => rfl),
          addMoves_of_env_nil (s := nextElement s) (eq_nil_of_no_answer_next henv hne)]
      · rw [e] at he; cases he

/-- Every command that was left waiting is answered as if the answer had been the next move. -/
theorem exec_answered_later {i : Instr} {s t : State} (r : SrcResponse) (rest : List EnvEvent) (hi : i.wellFormed = true)
    (hr : ready s) (henv : ∃ as : List SrcResponse, s.env = as.map .answer) (he : exec i s = .next t)
    (ht : t.ctrl = .waitSrc) : deliverAnswer r { t with env := rest } = exec i (addMoves (.answer r :: rest) s) := by
  cases i with
  | read n => exact read_answered_later r rest hr he ht henv
  | fields es =>
    have hlen : es.length ≤ Config.maxCount := of_decide_eq_true hi
    rw [exec_fields_ready hr] at he
    rw [exec_fields_ready (s := addMoves _ s) hr]
    exact fieldsLoop_answered_later hlen r rest ht es (enterBatch es.length (begin (.fields es) s)) hr.1 rfl rfl henv he
  | init => rw [exec_init_ready hr] at he; cases he; cases ht

/-- Settles O50: the step of the waiting core takes the answer, and by induction over the elements still to come every
request before the one it waits at was answered without a look at the moves after it. -/
theorem waitingIsTransparent : Obligations.WaitingIsTransparent := by
  intro i s t as r rest hi hr he ht
  obtain ⟨_, hdone⟩ := step_of_move (s := { t with env := .answer r :: rest }) (.inl (running_of_waiting ht)) rfl
  rw [hdone _ rfl]
  exact exec_answered_later (s := { s with env := as.map .answer }) (t := t) r rest hi hr ⟨as, rfl⟩ he ht

end Sys2Proof.Machine
end

section
/-! Executing is transparent: a command that is left executing, at its start, between two turns or after a refill, runs on to
what the whole of it comes to (10_state R26, 41_read R108, 42_read_fields R125). -/
namespace Sys2Proof.Machine
open Safety

/-! ## Running on from where a command was left -/

/-- The state `t` that a part of a command came to agrees with what the `whole` of it comes to: where the command is left
executing, running on is the whole; where it has ended or waits, `t` is the whole's next state. -/
def leadsTo (t : State) (whole : Result) : Prop :=
  if t.ctrl = .busy then runOn t = whole else whole = .next t

theorem leadsTo_of_busy {t : State} {whole : Result} (hc : t.ctrl = .busy) (h : runOn t = whole) : leadsTo t whole := by
  rwa [leadsTo, if_pos hc]

theorem leadsTo_of_not_busy {t : State} (hc : t.ctrl ≠ .busy) : leadsTo t (.next t) := by
  rw [leadsTo, if_neg hc]

/-- A READ runs on through the rest of its loop (41_read R108, R110). -/
theorem runOn_read {s : State} {n : Width} (hc : s.cur = some (.read n)) :
    runOn s = finishRead (readLoop s.work.rem.toNat s) := by
  simp only [runOn, hc]

/-- A batch that has not reached its first element runs on through all of them (42_read_fields R125). -/
theorem runOn_batch_start {s : State} {es : List CmdWord} (hc : s.cur = some (.fields es)) (hi : s.work.idx = 0) :
    runOn s = fieldsLoop es s := by
  simp only [runOn, hc, hi, if_true]

/-- A batch runs on through the rest of its element and the elements after it (42_read_fields R125). -/
theorem runOn_element {s : State} {es : List CmdWord} (hc : s.cur = some (.fields es)) (hi : s.work.idx ≠ 0) :
    runOn s = afterElement (readLoop s.work.rem.toNat s) (fieldsLoop (es.drop s.work.idx.toNat)) := by
  simp only [runOn, hc, if_neg hi]

/-- An INIT that runs on does its work and responds (40_init R80). -/
theorem runOn_init {s : State} (hc : s.cur = some .init) : runOn s = .next (finishInit s) := by
  simp only [runOn, hc]

/-- A command that is left at its start and runs on does what it does at once. -/
theorem runOn_of_startCommand {i : Instr} {s t : State} (hr : ready s) (hs : startCommand i s = .next t)
    (ht : t.ctrl = .busy) : runOn t = exec i s := by
  cases i with
  | read n =>
    by_cases h64 : Config.maxWidth < n.toNat
    · simp only [startCommand, if_pos h64] at hs; cases hs; cases ht
    · simp only [startCommand, if_neg h64] at hs
      cases hs
      rw [exec_read_ready hr, readCore, if_neg h64]
      exact runOn_read rfl
  | fields es =>
    cases hs
    rw [exec_fields_ready hr]
    exact runOn_batch_start rfl rfl
  | init =>
    cases hs
    rw [exec_init_ready hr]
    exact runOn_init rfl

/-- Where a command is left at its start, the moves to come and the fault registers are as they were. -/
theorem startCommand_env_fault {i : Instr} {s t : State} (hs : startCommand i s = .next t) (ht : t.ctrl = .busy) :
    t.env = s.env ∧ t.fault = s.fault := by
  cases i with
  | read n =>
    by_cases h64 : Config.maxWidth < n.toNat
    · simp only [startCommand, if_pos h64] at hs; cases hs; cases ht
    · simp only [startCommand, if_neg h64] at hs; cases hs; exact ⟨rfl, rfl⟩
  | fields es => cases hs; exact ⟨rfl, rfl⟩
  | init => cases hs; exact ⟨rfl, rfl⟩

/-! ## One turn -/

/-- A turn that goes on leaves the same command at the same element, executing or as it was (41_read R91 to R100). -/
theorem readTurn_more {s u : State} (h : readTurn s = .more u) :
    u.cur = s.cur ∧ u.work.idx = s.work.idx ∧ (u.ctrl = s.ctrl ∨ u.ctrl = .busy) := by
  by_cases h0 : s.work.rem = 0
  · rw [readTurn, if_pos h0] at h; cases h
  by_cases h1 : s.rcnt = 0
  · rw [readTurn, if_neg h0, if_pos h1] at h
    rcases sourceReadExact_cases (refillSize s.work.rem.toNat) s with ⟨r, v, e, _, hv⟩ | ⟨e, _⟩ | ⟨e, _⟩ <;> rw [e] at h
    · cases r <;> cases h
      rcases hv with ⟨_, _, _, rfl⟩ | ⟨_, _, _, rfl⟩ <;> exact ⟨rfl, rfl, .inr rfl⟩
    · cases h
    · cases h
  · rw [readTurn, if_neg h0, if_neg h1] at h
    cases h
    exact ⟨rfl, rfl, .inl rfl⟩

/-- All that a turn can end its ReadCore with: OK without a change, another status, a wait, or an answer that is none
(41_read R94, R105, R106, 20_memory R41). -/
theorem readTurn_ends_cases {s : State} {res : CoreResult} (h : readTurn s = .ends res) :
    res = .done .ok s.work.val none s ∨
    (∃ st e u, st ≠ .ok ∧ res = .done st 0 e u) ∨
    (∃ u, res = .waiting u ∧ u.ctrl = .waitSrc) ∨
    ∃ f, res = .broken f := by
  by_cases h0 : s.work.rem = 0
  · rw [readTurn, if_pos h0] at h; cases h; exact .inl rfl
  by_cases h1 : s.rcnt = 0
  · rw [readTurn, if_neg h0, if_pos h1] at h
    rcases sourceReadExact_cases (refillSize s.work.rem.toNat) s with ⟨r, v, e, _, _⟩ | ⟨e, _⟩ | ⟨e, _⟩ <;>
      simp only [e] at h
    · rcases coreAnswer_cases r v with ⟨bs, rfl, _⟩ | ⟨st, er, hst, _, ha, _⟩
      · cases h
      · rw [ha] at h; cases h; exact .inr (.inl ⟨st, er, v, hst, rfl⟩)
    · cases h; exact .inr (.inr (.inl ⟨_, rfl, rfl⟩))
    · cases h; exact .inr (.inr (.inr ⟨_, rfl⟩))
  · rw [readTurn, if_neg h0, if_neg h1] at h; cases h

/-- A READ's ReadCore that is over leaves no command executing. -/
theorem finishRead_not_busy {s t : State} {res : CoreResult} (h : readTurn s = .ends res) (ht : finishRead res = .next t) :
    t.ctrl ≠ .busy := by
  rcases readTurn_ends_cases h with rfl | ⟨st, e, u, _, rfl⟩ | ⟨u, rfl, hu⟩ | ⟨f, rfl⟩ <;> cases ht
  · simp
  · simp
  · simp [hu]

/-- The step of a batch to its next element, and the rest of the batch after it, are the batch from there (42_read_fields R121,
R122, R125). -/
theorem enterNextElement_leadsTo {es : List CmdWord} {s t : State} (hc : s.cur = some (.fields es)) (hb : s.ctrl = .busy)
    (hlen : es.length ≤ Config.maxCount) (h : enterNextElement es s = .next t) :
    leadsTo t (fieldsLoop (es.drop s.work.idx.toNat) s) := by
  unfold enterNextElement at h
  cases hd : es.drop s.work.idx.toNat with
  | nil => rw [hd] at h; cases h; exact leadsTo_of_not_busy (by simp)
  | cons w tl =>
    obtain ⟨hidx, htl⟩ := idx_succ_toNat hlen hd
    rw [hd] at h
    cases hw : decodeElement w with
    | none =>
      simp only [hw] at h
      cases h
      rw [fieldsLoop_illegal hw]
      exact leadsTo_of_not_busy (by simp)
    | some n =>
      rw [fieldsLoop_cons hw, readCore]
      simp only [hw] at h
      by_cases h64 : Config.maxWidth < n.toNat
      · rw [if_pos h64] at h ⊢
        cases h
        exact leadsTo_of_not_busy (by simp)
      · rw [if_neg h64] at h ⊢
        cases h
        have hne : s.work.idx + 1 ≠ 0 := fun h0 => by rw [h0] at hidx; simp at hidx
        refine leadsTo_of_busy hb ?_
        rw [runOn_element (s := enterCore n (nextElement s)) hc hne]
        simp only [enterCore_rem, enterCore_idx, nextElement_idx, htl]

/-- One turn of an executing READ, and the rest of it, are the whole. -/
theorem commandTurn_read {s t : State} {n : Width} (hc : s.cur = some (.read n)) (hb : s.ctrl = .busy)
    (h64 : s.work.rem.toNat ≤ 64) (h : commandTurn s = .next t) : leadsTo t (runOn s) := by
  obtain ⟨hmore, hends⟩ := readTurn_then_loop h64
  simp only [commandTurn, hc] at h
  rw [runOn_read hc]
  cases hturn : readTurn s with
  | more u =>
    rw [hturn] at h
    cases h
    obtain ⟨hcur, _, hctrl⟩ := readTurn_more hturn
    refine leadsTo_of_busy (hctrl.elim (·.trans hb) id) ?_
    rw [runOn_read (hcur.trans hc), (hmore t hturn).2]
  | ends res =>
    simp only [hturn] at h
    rw [hends res hturn, h]
    exact leadsTo_of_not_busy (finishRead_not_busy hturn h)

/-- One turn of a batch inside an element, and the rest of it, are the whole. -/
theorem commandTurn_element {s t : State} {es : List CmdWord} (hc : s.cur = some (.fields es)) (hi : s.work.idx ≠ 0)
    (hb : s.ctrl = .busy) (hlen : es.length ≤ Config.maxCount) (h64 : s.work.rem.toNat ≤ 64)
    (h : commandTurn s = .next t) : leadsTo t (runOn s) := by
  obtain ⟨hmore, hends⟩ := readTurn_then_loop h64
  simp only [commandTurn, hc, if_neg hi] at h
  rw [runOn_element hc hi]
  cases hturn : readTurn s with
  | more u =>
    rw [hturn] at h
    cases h
    obtain ⟨hcur, hidx, hctrl⟩ := readTurn_more hturn
    refine leadsTo_of_busy (hctrl.elim (·.trans hb) id) ?_
    rw [runOn_element (hcur.trans hc) (hidx ▸ hi), (hmore t hturn).2, hidx]
  | ends res =>
    simp only [hturn] at h
    rw [hends res hturn]
    rcases readTurn_ends_cases hturn with rfl | ⟨st, e, u, hst, rfl⟩ | ⟨u, rfl, hu⟩ | ⟨f, rfl⟩
    · exact enterNextElement_leadsTo (s := recordField s.work.val s) hc hb hlen h
    · rw [afterElement_failed hst] at h ⊢
      cases h
      exact leadsTo_of_not_busy (by simp)
    · cases h
      exact leadsTo_of_not_busy (by simp [hu])
    · cases h

/-- One turn of an executing command, and the rest of it, are the whole. -/
theorem commandTurn_leadsTo {s t : State} (hb : s.ctrl = .busy) (hl : executingCommandLegal s)
    (h : commandTurn s = .next t) : leadsTo t (runOn s) := by
  unfold executingCommandLegal at hl
  match hc : s.cur with
  | none => simp only [hc] at hl
  | some .init =>
    simp only [commandTurn, hc] at h
    cases h
    rw [runOn_init hc]
    exact leadsTo_of_not_busy (by simp)
  | some (.read n) =>
    simp only [hc] at hl
    obtain ⟨_, ⟨hrem, hn, _⟩, _⟩ := hl
    exact commandTurn_read hc hb (by omega) h
  | some (.fields es) =>
    simp only [hc] at hl
    rcases hl with ⟨hlen, _, hidx, _⟩ | ⟨⟨hlen, _, hidx, _⟩, ⟨hrem, hn, _⟩, _⟩
    · simp only [commandTurn, hc, hidx, if_true] at h
      rw [runOn_batch_start hc hidx]
      simpa [hidx] using enterNextElement_leadsTo hc hb hlen h
    · have hne : s.work.idx ≠ 0 := fun h0 => by simp [h0] at hidx
      exact commandTurn_element hc hne hb hlen (by omega) h

/-! ## An answer that is held -/

/-- A failure answer ends the command (41_read R94, 42_read_fields R123). -/
theorem continueCommand_failed_not_busy {s u t : State} {st : Status} {e : Option Config.SrcErr} (hst : st ≠ .ok)
    (h : continueCommand s (.done st 0 e u) = .next t) : t.ctrl ≠ .busy := by
  unfold continueCommand at h
  split at h
  · cases h; simp
  · rw [afterElement_failed hst] at h; cases h; simp
  · cases h
  · cases h

/-- A refilled core that is left executing runs on to what the command that takes its answer goes on to. -/
theorem runOn_refilled {s : State} {bs : List Byte} (hw : waitingCommandLegal s) :
    runOn (refill bs (takeAnswer s)) = continueCommand s (resumeCore (.ok bs) (takeAnswer s)) := by
  unfold waitingCommandLegal at hw
  match hc : s.cur with
  | none => simp only [hc] at hw
  | some .init => simp only [hc] at hw
  | some (.read n) =>
    rw [runOn_read (s := refill bs (takeAnswer s)) hc]
    simp only [continueCommand, hc, resumeCore, onAnswer]
  | some (.fields es) =>
    simp only [hc] at hw
    obtain ⟨_, _, hidx, _⟩ := hw
    have hne : s.work.idx ≠ 0 := fun h0 => by simp [h0] at hidx
    rw [runOn_element (s := refill bs (takeAnswer s)) hc hne]
    simp only [continueCommand, hc, resumeCore, onAnswer, refill_work, takeAnswer_work]

/-- An answer that leads to a next state was taken by a waiting core, whatever the core then does. -/
theorem answerRequest_next {r : SrcResponse} {s t : State} {act : State → Result} (h : answerRequest r s act = .next t) :
    act (takeAnswer s) = .next t ∧ ∀ act', answerRequest r s act' = act' (takeAnswer s) := by
  rcases answerRequest_cases r s act with ⟨e, _⟩ | ⟨_, _, _, _, _, e⟩ | ⟨k, hf, hc, hk, hfit, e⟩
  · rw [e] at h; cases h
  · rw [e] at h; cases h
  · exact ⟨e.symm.trans h, fun act' => by simp only [answerRequest, hf, hc, hk, hfit, and_self, if_true]⟩

/-- An answer that is held, and the rest of the command after it, are the answer that is taken (20_memory R41 step 3). -/
theorem deliverAnswerHeld_leadsTo {s t : State} {r : SrcResponse} (hw : waitingCommandLegal s)
    (h : deliverAnswerHeld r s = .next t) : leadsTo t (deliverAnswer r s) := by
  obtain ⟨hact, htake⟩ := answerRequest_next h
  rw [deliverAnswer, htake]
  rcases coreAnswer_cases r (takeAnswer s) with ⟨bs, rfl, _⟩ | ⟨st, e, hst, _, ha, _⟩
  · cases hact
    exact leadsTo_of_busy rfl (runOn_refilled hw)
  · simp only [ha] at hact
    simp only [resumeCore, ha, hact]
    exact leadsTo_of_not_busy (continueCommand_failed_not_busy hst hact)

/-! ## The three places where a command is left executing -/

/-- A core that executes or waits is not faulted (60_exceptions R146). -/
theorem fault_zero_of_not_idle {s : State} (h : faultRegistersLegal s) (hc : s.ctrl ≠ .idle) : s.fault = 0 := by
  rcases h with ⟨hf, _⟩ | ⟨_, _, hi⟩
  · exact hf
  · exact absurd hi hc

/-- A command that is held at its start comes in the next step to what it gives at once. -/
theorem heldAtStart_then_step {s t : State} {ws : List CmdWord} {rest : List EnvEvent} {i : Instr} (hr : ready s)
    (henv : s.env = .commandHeld ws :: rest) (hd : decode ws = .instr i) (hs : step s = .next t) (ht : t.ctrl = .busy)
    (hnext : ∀ e more, rest = e :: more → atAnyTime e = false) : step t = exec i { s with env := rest } := by
  obtain ⟨_, hdone⟩ := step_of_move (.inl (running_of_ready hr)) henv
  have hr' : ready { s with env := rest } := hr
  have hstart : startCommand i { s with env := rest } = .next t := by
    rw [hdone _ rfl] at hs
    simpa only [offerHeld, hd, accept_ready hr'] using hs
  obtain ⟨hte, htf⟩ := startCommand_env_fault hstart ht
  have hrun : running t = true := by
    have hf : t.fault = 0 := htf.trans hr.1
    simp [running, ht, hf]
  rw [step_of_running hrun (fun e more he => hnext e more (hte.symm.trans he))]
  exact runOn_of_startCommand hr' hstart ht

/-- A step that is one turn of an executing command leads to what the command comes to without it. -/
theorem turn_leadsTo {s t : State} {rest : List EnvEvent} (hi : Inv s) (hb : s.ctrl = .busy) (henv : s.env = .turn :: rest)
    (hs : step s = .next t) : leadsTo t (runOn { s with env := rest }) := by
  obtain ⟨_, hdone⟩ := step_of_move (s := s) (.inr rfl) henv
  obtain ⟨_, hl⟩ := hi.busy hb
  have hf := fault_zero_of_not_idle hi.faults (by simp [hb])
  have hrun : running { s with env := rest } = true := by simp [running, hb, hf]
  have hturn : commandTurn { s with env := rest } = .next t := by
    rw [hdone _ rfl] at hs
    simpa only [hrun, if_true] using hs
  exact commandTurn_leadsTo (s := { s with env := rest }) hb hl hturn

/-- A step that takes an answer and is held leads to what the step that takes the answer comes to. -/
theorem answerHeld_leadsTo {s t : State} {r : SrcResponse} {rest : List EnvEvent} (hi : Inv s) (hc : s.ctrl = .waitSrc)
    (henv : s.env = .answerHeld r :: rest) (hs : step s = .next t) :
    leadsTo t (step { s with env := .answer r :: rest }) := by
  obtain ⟨_, hheld⟩ := step_of_move (.inl (running_of_waiting hc)) henv
  obtain ⟨_, htaken⟩ := step_of_move (s := { s with env := .answer r :: rest }) (.inl (running_of_waiting hc)) rfl
  obtain ⟨_, _, _, _, _, hw⟩ := hi.wait hc
  rw [hheld _ rfl] at hs
  rw [htaken _ rfl]
  exact deliverAnswerHeld_leadsTo (s := { s with env := rest }) hw hs

/-- Settles O51: at each place where a command can be left executing, what it is left as leads to the whole of it. -/
theorem executingIsTransparent : Obligations.ExecutingIsTransparent :=
  ⟨fun _ _ _ _ _ hr henv hd hs ht hnext => heldAtStart_then_step hr henv hd hs ht hnext,
    fun _ _ _ hi hb henv hs => turn_leadsTo hi hb henv hs,
    fun _ _ _ _ hi hc henv hs => answerHeld_leadsTo hi hc henv hs⟩

end Sys2Proof.Machine
end

section
/-! Every step keeps the invariant: what holds of an executing core between two turns of its loop and between two elements
of its batch, and what each part of a command makes of it (10_state R21, R26, R32; 41_read R90 to R108; 42_read_fields R120
to R125). -/
namespace Sys2Proof.Machine
open Safety

/-! ## An executing core -/

/-- An executing core, whatever its command: no fault, legal requests, none outstanding (10_state R26, 20_memory R41). -/
structure Executing (s : State) : Prop where
  clear : s.fault = 0 ∧ s.faultCause = 0 ∧ s.faultInfo = 0
  requests : requestsLegal s
  ctrl : s.ctrl = .busy
  request : s.request = none

/-- Before a turn of the accumulation loop (41_read R90, R101, R108). -/
structure InLoop (s : State) : Prop extends Executing s where
  command : waitingCommandLegal s
  loop : loopLegal s
  residue : residueLegal s

/-- After a ReadCore that returned, with whatever status (41_read R105, R106, 10_state R32). -/
structure CoreReturned (s : State) : Prop extends Executing s where
  command : waitingCommandLegal s
  width : s.work.n.toNat ≤ 64
  residue : s.rcnt.toNat ≤ 7

/-- A batch of the elements `es` between two elements, `idx` of them delivered (42_read_fields R120 to R125). -/
structure BetweenElements (es : List CmdWord) (s : State) : Prop extends Executing s where
  cur : s.cur = some (.fields es)
  length : es.length ≤ Config.maxCount
  count : s.work.k = BitVec.ofNat 14 es.length
  idx : s.work.idx.toNat = s.work.results.length
  consumed : s.work.consumed ≤ 64 * s.work.results.length
  residue : s.rcnt.toNat ≤ 7

theorem clear_of_fault_zero {s : State} (h : faultRegistersLegal s) (hf : s.fault = 0) :
    s.fault = 0 ∧ s.faultCause = 0 ∧ s.faultInfo = 0 := by
  rcases h with h0 | ⟨h1, _⟩
  · exact h0
  · rw [hf] at h1; cases h1

/-- A next state, if the outcome is one, has the invariant. -/
def KeepsInv (o : Result) : Prop := ∀ t, o = .next t → Inv t

theorem keepsInv_next {s : State} (h : Inv s) : KeepsInv (.next s) := by rintro _ ⟨⟩; exact h
theorem keepsInv_fault (f : Fault) : KeepsInv (.fault f) := by rintro _ ⟨⟩
theorem keepsInv_refused (r : Refusal) : KeepsInv (.refused r) := by rintro _ ⟨⟩

/-- What a ReadCore that began in `s` may come to. -/
def CoreLegal (s : State) : CoreResult → Prop
  | .done _ _ _ t => CoreReturned t ∧ t.cur = s.cur ∧ t.work.idx = s.work.idx
  | .waiting t => Inv t
  | .raised t => Inv t
  | .broken _ => True

theorem CoreLegal.of_same_element {s u : State} {res : CoreResult} (h : CoreLegal u res) (hcur : u.cur = s.cur)
    (hidx : u.work.idx = s.work.idx) : CoreLegal s res := by
  cases res with
  | done st v e t =>
    obtain ⟨ht, htcur, htidx⟩ := h
    exact ⟨ht, htcur.trans hcur, htidx.trans hidx⟩
  | waiting t => exact h
  | raised t => exact h
  | broken f => trivial

/-! ## The four kinds of states a step may end in -/

/-- A command that ends with a response leaves a command boundary (20_memory R53). -/
theorem Executing.inv_respond {s : State} (h : Executing s) (hr : s.rcnt.toNat ≤ 7) (r : Response) :
    Inv (respond r s) where
  faults := .inl h.clear
  requests := h.requests
  boundary := fun _ => ⟨hr, h.request, rfl⟩
  wait := by rintro ⟨⟩
  busy := by rintro ⟨⟩

/-- A fatal fault leaves a command boundary of the faulted state (60_exceptions R146). -/
theorem inv_raiseFatal {s : State} (hq : requestsLegal s) (hn : s.request = none) (hr : s.rcnt.toNat ≤ 7) (c : FatalCause)
    (w : CmdWord) : Inv (raiseFatal c w s) where
  faults := .inr ⟨rfl, by cases c <;> simp [FatalCause.code], rfl⟩
  requests := hq
  boundary := fun _ => ⟨hr, hn, rfl⟩
  wait := by rintro ⟨⟩
  busy := by rintro ⟨⟩

theorem Executing.inv {s : State} (h : Executing s) (hc : executingCommandLegal s) : Inv s where
  faults := .inl h.clear
  requests := h.requests
  boundary := by simp [boundaryLegal, h.ctrl]
  wait := by simp [waitLegal, h.ctrl]
  busy := fun _ => ⟨h.request, hc⟩

theorem InLoop.inv {s : State} (h : InLoop s) : Inv s := by
  refine h.toExecuting.inv ?_
  have hcmd := h.command
  unfold waitingCommandLegal at hcmd
  unfold executingCommandLegal
  match hc : s.cur with
  | none => simp only [hc] at hcmd
  | some .init => simp only [hc] at hcmd
  | some (.read w) =>
    simp only [hc] at hcmd
    exact ⟨hcmd, h.loop, h.residue⟩
  | some (.fields es) =>
    simp only [hc] at hcmd
    exact .inr ⟨hcmd, h.loop, h.residue⟩

theorem requestsLegal_append {s : State} {k : Nat} (h : requestsLegal s) (h1 : 1 ≤ k) (h8 : k ≤ 8) :
    ∀ j ∈ s.requests ++ [k], 1 ≤ j ∧ j ≤ 8 := by
  intro j hj
  rcases List.mem_append.mp hj with hj | hj
  · exact h j hj
  · rw [List.mem_singleton] at hj; omega

/-- A loop that finds its residue empty and no answer waits (20_memory R41, 41_read R91, R92). -/
theorem InLoop.inv_issueRequest {s : State} (h : InLoop s) (h0 : s.rcnt = 0) (h1 : 1 ≤ s.work.rem.toNat)
    (hs : s.source = .external) : Inv (issueRequest (refillSize s.work.rem.toNat) s) where
  faults := .inl h.clear
  requests :=
    have ⟨hrem, hn, _⟩ := h.loop
    requestsLegal_append h.requests (refillSize_pos h1) (refillSize_le (by omega))
  boundary := by rintro ⟨⟩
  wait := fun _ => ⟨h0, hs, h1, rfl, h.loop, h.command⟩
  busy := by rintro ⟨⟩

/-! ## The accumulation loop -/

/-- One chunk keeps REM ≤ N, VAL < 2^(N-REM) and the bound of the residue (41_read R96 to R101). -/
theorem InLoop.takeChunk {s : State} (h : InLoop s) : InLoop (takeChunk s) where
  toExecuting := ⟨h.clear, h.requests, h.ctrl, h.request⟩
  command := h.command
  loop := by
    obtain ⟨hrem, hn, hval⟩ := h.loop
    refine ⟨?_, hn, ?_⟩
    · rw [takeChunk_rem_toNat, takeChunk_n]; omega
    · rw [takeChunk_rem_toNat, takeChunk_n, takeChunk_val, BitVec.toNat_ofNat]
      refine (Nat.mod_le _ _).trans_lt ((fold_lt (chunk_lt _ _ _) hval).trans_le (Nat.pow_le_pow_right (by omega) ?_))
      omega
  residue := by
    obtain ⟨h7, h64⟩ := h.residue
    rw [residueLegal, takeChunk_rcnt_toNat, takeChunk_rem_toNat]
    omega

/-- A refill of the bytes that were asked for keeps the bound of the residue (41_read R91, R93). -/
theorem InLoop.refill {s : State} {bs : List Byte} (h : InLoop s) (hlen : bs.length = refillSize s.work.rem.toNat) :
    InLoop (refill bs s) where
  toExecuting := ⟨h.clear, h.requests, h.ctrl, h.request⟩
  command := h.command
  loop := h.loop
  residue := by
    obtain ⟨hrem, hn, _⟩ := h.loop
    have h8 := refillSize_le (rem := s.work.rem.toNat) (by omega)
    rw [residueLegal, refill_rcnt_toNat s (by omega), refill_work, hlen]
    unfold refillSize at h8 ⊢
    omega

/-- A request that is answered leaves the loop executing, whatever is left of the moves to come and of the source. -/
theorem InLoop.answered {s : State} (h : InLoop s) (h1 : 1 ≤ s.work.rem.toNat) (env : List EnvEvent) (src : Source) :
    InLoop (takeAnswer { issueRequest (refillSize s.work.rem.toNat) s with env := env, source := src }) where
  clear := h.clear
  requests :=
    have ⟨hrem, hn, _⟩ := h.loop
    requestsLegal_append h.requests (refillSize_pos h1) (refillSize_le (by omega))
  ctrl := rfl
  request := rfl
  command := h.command
  loop := h.loop
  residue := h.residue

/-- A loop with nothing left to take has at most 7 residue bits (10_state R32). -/
theorem InLoop.returned {s : State} (h : InLoop s) (h0 : s.rcnt.toNat ≤ 7 ∨ s.work.rem.toNat = 0) : CoreReturned s where
  toExecuting := h.toExecuting
  command := h.command
  width :=
    have ⟨_, hn, _⟩ := h.loop
    hn
  residue := by
    obtain ⟨h7, _⟩ := h.residue
    omega

/-- What one turn from `s` may come to: the loop goes on with fewer bits missing, or it comes to a legal end. -/
def TurnLegal (s : State) : LoopTurn → Prop
  | .more u => InLoop u ∧ u.work.rem.toNat < s.work.rem.toNat
  | .ends res => CoreLegal s res

theorem one_le_toNat {n : Nat} {x : BitVec n} (h : x ≠ 0) : 1 ≤ x.toNat :=
  Nat.one_le_iff_ne_zero.mpr fun h0 => h (BitVec.eq_of_toNat_eq (by simpa using h0))

/-- The source's answer to a loop whose residue is empty: a refill leaves it in its loop, a failure ends its ReadCore
(41_read R93, R94). -/
theorem onAnswer_legal {s : State} {r : SrcResponse} (h : InLoop s) (h0 : s.rcnt = 0)
    (hfit : r.fits (refillSize s.work.rem.toNat) = true) :
    (∃ bs, onAnswer r s = .refilled (refill bs s) ∧ InLoop (refill bs s) ∧ bs.length = refillSize s.work.rem.toNat) ∨
    (∃ st e, onAnswer r s = .failed st e ∧ CoreReturned s) := by
  rcases coreAnswer_cases r s with ⟨bs, rfl, _⟩ | ⟨st, e, _, _, ha, _⟩
  · have hlen : bs.length = refillSize s.work.rem.toNat := by simpa [SrcResponse.fits] using hfit
    exact .inl ⟨bs, rfl, h.refill hlen, hlen⟩
  · exact .inr ⟨st, e, ha, h.returned (.inl (by simp [h0]))⟩

/-- A turn with an empty residue: its request is answered, or it waits, or the answer is none (41_read R92 to R94). -/
theorem readTurn_legal_of_empty {s : State} (h : InLoop s) (h1 : s.work.rem ≠ 0) (hr : s.rcnt = 0) :
    TurnLegal s (readTurn s) := by
  have hpos := one_le_toNat h1
  rw [readTurn, if_neg h1, if_pos hr]
  rcases sourceReadExact_cases (refillSize s.work.rem.toNat) s with ⟨r, v, e, hfit, hv⟩ | ⟨e, hs, _⟩ | ⟨e, _⟩ <;>
    simp only [e]
  · obtain ⟨hl, hcur, hwork, hrcnt⟩ : InLoop v ∧ v.cur = s.cur ∧ v.work = s.work ∧ v.rcnt = 0 := by
      rcases hv with ⟨_, _, _, rfl⟩ | ⟨_, _, _, rfl⟩ <;> exact ⟨h.answered hpos _ _, rfl, rfl, hr⟩
    rcases onAnswer_legal hl hrcnt (by rw [hwork]; exact hfit) with ⟨bs, ha, hl', hlen⟩ | ⟨st, er, ha, hret⟩ <;>
      simp only [ha]
    · refine ⟨hl'.takeChunk, ?_⟩
      obtain ⟨hrem, hn, _⟩ := h.loop
      have := refillSize_le (rem := s.work.rem.toNat) (by omega)
      have := refillSize_pos hpos
      rw [takeChunk_rem_toNat, refill_rcnt_toNat _ (by rw [hlen, hwork]; omega), refill_work, hlen, hwork]
      omega
    · exact ⟨hret, hcur, by rw [hwork]⟩
  · exact h.inv_issueRequest hr hpos hs
  · trivial

/-- One turn of the loop (41_read R91 to R100, R108). -/
theorem readTurn_legal {s : State} (h : InLoop s) : TurnLegal s (readTurn s) := by
  by_cases h0 : s.work.rem = 0
  · rw [readTurn, if_pos h0]
    exact ⟨h.returned (.inr (by simp [h0])), rfl, rfl⟩
  by_cases hr : s.rcnt = 0
  · exact readTurn_legal_of_empty h h0 hr
  · have := one_le_toNat hr
    have := one_le_toNat h0
    rw [readTurn, if_neg h0, if_neg hr]
    exact ⟨h.takeChunk, by rw [takeChunk_rem_toNat]; omega⟩

/-- The loop, by induction on its fuel: every turn takes at least one bit, so REM turns are enough (41_read R108). -/
theorem readLoop_legal {fuel : Nat} {s : State} (h : InLoop s) (hf : s.work.rem.toNat ≤ fuel) :
    CoreLegal s (readLoop fuel s) := by
  induction fuel generalizing s with
  | zero => exact ⟨h.returned (.inr (by omega)), rfl, rfl⟩
  | succ fuel ih =>
    have hl := readTurn_legal h
    rw [readLoop]
    cases hturn : readTurn s with
    | more u =>
      rw [hturn] at hl
      obtain ⟨hu, hlt⟩ := hl
      obtain ⟨hcur, hidx, _⟩ := readTurn_more hturn
      exact (ih hu (by omega)).of_same_element hcur hidx
    | ends res => rw [hturn] at hl; exact hl

/-- A ReadCore that a command enters (41_read R90). -/
theorem readCore_legal {w : CmdWord} {n : Width} {s : State} (h : Executing s) (hr : s.rcnt.toNat ≤ 7)
    (hin : n.toNat ≤ 64 → InLoop (enterCore n s)) : CoreLegal s (readCore w n s) := by
  rw [readCore]
  split
  · exact inv_raiseFatal h.requests h.request hr _ _
  · exact (readLoop_legal (hin (Nat.le_of_not_lt ‹_›)) (by simp)).of_same_element rfl rfl

/-- A ReadCore is entered with an empty partial result and all of its bits missing (41_read R90). -/
theorem Executing.inLoop_enterCore {n : Width} {s : State} (h : Executing s) (hr : s.rcnt.toNat ≤ 7)
    (hcmd : waitingCommandLegal (enterCore n s)) (h64 : n.toNat ≤ 64) : InLoop (enterCore n s) where
  toExecuting := ⟨h.clear, h.requests, h.ctrl, h.request⟩
  command := hcmd
  loop := ⟨Nat.le_refl _, h64, by simp⟩
  residue := ⟨by simp; omega, by simp; omega⟩

/-! ## The batch -/

/-- A batch between two elements enters the next one (42_read_fields R121, R122). -/
theorem BetweenElements.inLoop {all es : List CmdWord} {w : CmdWord} {n : Width} {s : State} (h : BetweenElements all s)
    (hdrop : all.drop s.work.idx.toNat = w :: es) (hd : decodeElement w = some n) (h64 : n.toNat ≤ 64) :
    InLoop (enterCore n (nextElement s)) := by
  obtain ⟨hidx, _⟩ := idx_succ_toNat h.length hdrop
  have hget : all[s.work.idx.toNat]? = some w := by
    simpa using (List.getElem?_drop (xs := all) (i := s.work.idx.toNat) (j := 0)).symm.trans (by rw [hdrop]; rfl)
  have he : elementLegal all (enterCore n (nextElement s)) := by
    refine ⟨h.length, h.count, ?_, ?_, ?_, h.consumed⟩ <;> simp only [enterCore_idx, nextElement_idx, hidx]
    · omega
    · simp only [Nat.add_sub_cancel, hget, enterCore_n, Option.bind_some, hd]
    · simp only [enterCore_results, nextElement_results, h.idx]
  refine Executing.inLoop_enterCore ⟨h.clear, h.requests, h.ctrl, h.request⟩ h.residue ?_ h64
  unfold waitingCommandLegal
  simp only [enterCore_cur, nextElement_cur, h.cur]
  exact he

/-- An element that was delivered leaves the batch between two elements (42_read_fields R125). -/
theorem CoreReturned.betweenElements {es : List CmdWord} {s : State} (h : CoreReturned s) (hc : s.cur = some (.fields es))
    (v : Word64) : BetweenElements es (recordField v s) := by
  have hcmd := h.command
  unfold waitingCommandLegal at hcmd
  simp only [hc] at hcmd
  obtain ⟨hlen, hk, _, _, hidx, hcons⟩ := hcmd
  have hw := h.width
  refine ⟨⟨h.clear, h.requests, h.ctrl, h.request⟩, hc, hlen, hk, ?_, ?_, h.residue⟩
  · simpa using hidx.symm
  · simp; omega

/-- A batch after its element's ReadCore: it goes on from between two elements, or it is over. -/
theorem afterElement_keepsInv {all : List CmdWord} {s : State} {res : CoreResult} {goOn : State → Result}
    (hc : s.cur = some (.fields all)) (h : CoreLegal s res)
    (hgo : ∀ t, BetweenElements all t → t.work.idx = s.work.idx → KeepsInv (goOn t)) :
    KeepsInv (afterElement res goOn) := by
  cases res with
  | done st v e t =>
    obtain ⟨ht, hcur, hidx⟩ := h
    by_cases hst : st = .ok
    · subst hst
      exact hgo _ (ht.betweenElements (hcur.trans hc) v) hidx
    · rw [afterElement_failed hst]
      exact keepsInv_next (ht.inv_respond ht.residue _)
  | waiting t => exact keepsInv_next h
  | raised t => exact keepsInv_next h
  | broken f => exact keepsInv_fault f

/-- The elements still to come, by induction (42_read_fields R121 to R125). -/
theorem fieldsLoop_keepsInv {all es : List CmdWord} {s : State} (h : BetweenElements all s)
    (hdrop : all.drop s.work.idx.toNat = es) : KeepsInv (fieldsLoop es s) := by
  induction es generalizing s with
  | nil => exact keepsInv_next (h.inv_respond h.residue _)
  | cons w es ih =>
    obtain ⟨_, hdrop'⟩ := idx_succ_toNat h.length hdrop
    cases hd : decodeElement w with
    | none =>
      rw [fieldsLoop_illegal hd]
      exact keepsInv_next (inv_raiseFatal (s := nextElement s) h.requests h.request h.residue _ _)
    | some n =>
      rw [fieldsLoop_cons hd]
      refine afterElement_keepsInv (s := nextElement s) h.cur ?_ fun t ht hidx => ih ht (by rw [hidx]; exact hdrop')
      exact readCore_legal ⟨h.clear, h.requests, h.ctrl, h.request⟩ h.residue (h.inLoop hdrop hd)

/-- The step of a batch to its next element, or its end (42_read_fields R121, R122, R125). -/
theorem enterNextElement_keepsInv {all : List CmdWord} {s : State} (h : BetweenElements all s) :
    KeepsInv (enterNextElement all s) := by
  unfold enterNextElement
  cases hdrop : all.drop s.work.idx.toNat with
  | nil => exact keepsInv_next (h.inv_respond h.residue _)
  | cons w es =>
    have hraise : ∀ c, Inv (raiseFatal c w (nextElement s)) := fun c =>
      inv_raiseFatal (s := nextElement s) h.requests h.request h.residue c w
    cases hd : decodeElement w with
    | none => simp only [hd]; exact keepsInv_next (hraise _)
    | some n =>
      simp only [hd]
      split
      · exact keepsInv_next (hraise _)
      · exact keepsInv_next (h.inLoop hdrop hd (Nat.le_of_not_lt ‹_›)).inv

/-! ## The end of a READ, and what the source's answer leads to -/

theorem finishRead_keepsInv {s : State} {res : CoreResult} (h : CoreLegal s res) : KeepsInv (finishRead res) := by
  cases res with
  | done st v e t =>
    obtain ⟨ht, _⟩ := h
    exact keepsInv_next (ht.inv_respond ht.residue _)
  | waiting t => exact keepsInv_next h
  | raised t => exact keepsInv_next h
  | broken f => exact keepsInv_fault f

/-- INIT leaves an empty residue (40_init R80). -/
theorem Executing.inv_finishInit {s : State} (h : Executing s) : Inv (finishInit s) :=
  Executing.inv_respond (s := emptyResidue s) ⟨h.clear, h.requests, h.ctrl, h.request⟩ (by simp) _

/-- A command in execution goes on after its ReadCore (41_read R110, 42_read_fields R125). -/
theorem continueCommand_keepsInv {s : State} {res : CoreResult} (h : CoreLegal s res) :
    KeepsInv (continueCommand s res) := by
  unfold continueCommand
  split
  · exact finishRead_keepsInv h
  · rename_i all hc
    exact afterElement_keepsInv hc h fun t ht hidx => fieldsLoop_keepsInv ht (by rw [hidx])
  · exact keepsInv_refused _
  · exact keepsInv_refused _

theorem resumeCore_legal {s : State} {r : SrcResponse} (h : InLoop s) (h0 : s.rcnt = 0)
    (hfit : r.fits (refillSize s.work.rem.toNat) = true) : CoreLegal s (resumeCore r s) := by
  rcases onAnswer_legal h h0 hfit with ⟨bs, ha, hl, _⟩ | ⟨st, e, ha, hret⟩ <;> simp only [resumeCore, ha]
  · exact (readLoop_legal hl (Nat.le_refl _)).of_same_element rfl rfl
  · exact ⟨hret, rfl, rfl⟩

/-- A core that waits and takes the answer is in its loop again, the residue empty (20_memory R41 step 3). -/
theorem inLoop_takeAnswer {s : State} (h : Inv s) (hc : s.ctrl = .waitSrc) :
    InLoop (takeAnswer s) ∧ s.rcnt = 0 ∧ s.request = some (refillSize s.work.rem.toNat) := by
  obtain ⟨h0, _, _, hreq, hloop, hcmd⟩ := h.wait hc
  have hclear := clear_of_fault_zero h.faults (fault_zero_of_not_idle h.faults (by simp [hc]))
  exact ⟨⟨⟨hclear, h.requests, rfl, rfl⟩, hcmd, hloop, by simp [residueLegal, h0]⟩, h0, hreq⟩

/-- An answer, whatever the waiting core then does with it. -/
theorem answerRequest_keepsInv {s : State} {r : SrcResponse} {act : State → Result} (h : Inv s)
    (hact : InLoop (takeAnswer s) → s.rcnt = 0 → r.fits (refillSize s.work.rem.toNat) = true →
      KeepsInv (act (takeAnswer s))) : KeepsInv (answerRequest r s act) := by
  rcases answerRequest_cases r s act with ⟨e, _⟩ | ⟨_, _, _, _, _, e⟩ | ⟨k, _, hc, hk, hfit, e⟩ <;> rw [e]
  · exact keepsInv_fault _
  · exact keepsInv_fault _
  · obtain ⟨hl, h0, hreq⟩ := inLoop_takeAnswer h hc
    obtain rfl : k = _ := Option.some.inj (hk.symm.trans hreq)
    exact hact hl h0 hfit

theorem deliverAnswer_keepsInv {s : State} (h : Inv s) (r : SrcResponse) : KeepsInv (deliverAnswer r s) :=
  answerRequest_keepsInv h fun hl h0 hfit =>
    continueCommand_keepsInv ((resumeCore_legal hl h0 hfit).of_same_element rfl rfl)

theorem deliverAnswerHeld_keepsInv {s : State} (h : Inv s) (r : SrcResponse) : KeepsInv (deliverAnswerHeld r s) := by
  refine answerRequest_keepsInv h fun hl h0 hfit => ?_
  rcases onAnswer_legal hl h0 hfit with ⟨bs, ha, hl', _⟩ | ⟨st, e, ha, hret⟩ <;> simp only [ha]
  · exact keepsInv_next hl'.inv
  · exact continueCommand_keepsInv ⟨hret, rfl, rfl⟩

/-! ## The start of a command -/

/-- FIELDS has no more elements than COUNT can say, if its transaction decodes (30_encoding R62, R63). -/
theorem wellFormed_of_decode {ws : List CmdWord} {i : Instr} (h : decode ws = .instr i) : i.wellFormed = true := by
  cases i with
  | read n => rfl
  | init => rfl
  | fields es =>
    cases ws with
    | nil => cases h
    | cons w rest =>
      simp only [decode] at h
      split at h
      · split at h
        · rename_i hlen
          cases h
          have := (countField w).isLt
          simp only [Instr.wellFormed, Config.maxCount, hlen, decide_eq_true_eq]
          omega
        · cases h
      · cases rest with
        | nil =>
          simp only [decodeSingle] at h
          repeat' split at h
          all_goals cases h
        | cons w' rest => cases h

/-- A command that is accepted is executing, with the residue of the command boundary (10_state R26, R32). -/
theorem executing_begin {s : State} (h : Inv s) (hr : ready s) (i : Instr) :
    Executing (begin i s) ∧ s.rcnt.toNat ≤ 7 := by
  obtain ⟨hf, hc⟩ := hr
  obtain ⟨h7, hreq, _⟩ := h.boundary hc
  have hclear := clear_of_fault_zero h.faults hf
  exact ⟨⟨hclear, h.requests, rfl, hreq⟩, h7⟩

theorem inLoop_begin_read {s : State} (h : Inv s) (hr : ready s) {n : Width} (h64 : n.toNat ≤ 64) :
    InLoop (enterCore n (begin (.read n) s)) :=
  have ⟨he, h7⟩ := executing_begin h hr (.read n)
  he.inLoop_enterCore h7 rfl h64

theorem betweenElements_begin {s : State} (h : Inv s) (hr : ready s) {es : List CmdWord}
    (hlen : es.length ≤ Config.maxCount) : BetweenElements es (enterBatch es.length (begin (.fields es) s)) :=
  have ⟨he, h7⟩ := executing_begin h hr (.fields es)
  ⟨⟨he.clear, he.requests, he.ctrl, he.request⟩, rfl, hlen, rfl, rfl, Nat.zero_le _, h7⟩

theorem exec_keepsInv {s : State} {i : Instr} (h : Inv s) (hr : ready s) (hi : i.wellFormed = true) :
    KeepsInv (exec i s) := by
  cases i with
  | read n =>
    have ⟨he, h7⟩ := executing_begin h hr (.read n)
    rw [exec_read_ready hr]
    exact finishRead_keepsInv (readCore_legal he h7 (inLoop_begin_read h hr))
  | fields es =>
    rw [exec_fields_ready hr]
    exact fieldsLoop_keepsInv (betweenElements_begin h hr (of_decide_eq_true hi)) rfl
  | init =>
    have ⟨he, _⟩ := executing_begin h hr .init
    rw [exec_init_ready hr]
    exact keepsInv_next he.inv_finishInit

theorem startCommand_keepsInv {s : State} {i : Instr} (h : Inv s) (hr : ready s) (hi : i.wellFormed = true) :
    KeepsInv (startCommand i s) := by
  obtain ⟨he, h7⟩ := executing_begin h hr i
  cases i with
  | read n =>
    simp only [startCommand]
    split
    · exact keepsInv_next (inv_raiseFatal he.requests he.request h7 _ _)
    · exact keepsInv_next (inLoop_begin_read h hr (Nat.le_of_not_lt ‹_›)).inv
  | fields es =>
    have hlen : es.length ≤ Config.maxCount := of_decide_eq_true hi
    refine keepsInv_next (Executing.inv ⟨he.clear, he.requests, he.ctrl, he.request⟩ ?_)
    exact .inl ⟨hlen, rfl, rfl, rfl, rfl, h7⟩
  | init => exact keepsInv_next (he.inv h7)

/-- What the core does with a transaction that it may accept (20_memory R52). -/
theorem accept_keepsInv {s : State} {run : State → Result} (h : Inv s) (hrun : ready s → KeepsInv (run s)) :
    KeepsInv (accept s run) := by
  rcases h.faults with ⟨hf, _⟩ | ⟨hf, _⟩
  · by_cases hc : s.ctrl = .idle
    · rw [accept_ready ⟨hf, hc⟩]; exact hrun ⟨hf, hc⟩
    · rw [accept_busy hf hc]; exact keepsInv_refused _
  · rw [accept_faulted hf]; exact keepsInv_next h

theorem rejectTransaction_keepsInv {s : State} (h : Inv s) (e : DecodeError) : KeepsInv (rejectTransaction e s) := by
  rcases rejectTransaction_cases e s with ⟨w, _, he⟩ | ⟨_, he⟩ <;> rw [he] <;> refine accept_keepsInv h fun hr => ?_
  · obtain ⟨h7, hreq, _⟩ := h.boundary hr.2
    exact keepsInv_next (inv_raiseFatal h.requests hreq h7 _ _)
  · exact keepsInv_refused _

/-! ## An executing command -/

/-- Where a legal executing core can be found: in the loop of a READ, before a batch, in the loop of an element, before
INIT's work. -/
theorem executing_cases {s : State} (h : Inv s) (hb : s.ctrl = .busy) :
    (∃ n, s.cur = some (.read n) ∧ InLoop s) ∨
    (∃ es, s.cur = some (.fields es) ∧ s.work.idx = 0 ∧ BetweenElements es s) ∨
    (∃ es, s.cur = some (.fields es) ∧ s.work.idx ≠ 0 ∧ InLoop s) ∨
    (s.cur = some .init ∧ Executing s) := by
  obtain ⟨hreq, hl⟩ := h.busy hb
  have hclear := clear_of_fault_zero h.faults (fault_zero_of_not_idle h.faults (by simp [hb]))
  have he : Executing s := ⟨hclear, h.requests, hb, hreq⟩
  unfold executingCommandLegal at hl
  match hc : s.cur with
  | none => simp only [hc] at hl
  | some .init => exact .inr (.inr (.inr ⟨rfl, he⟩))
  | some (.read n) =>
    simp only [hc] at hl
    obtain ⟨hw, hloop, hres⟩ := hl
    exact .inl ⟨n, rfl, he, by simpa only [waitingCommandLegal, hc] using hw, hloop, hres⟩
  | some (.fields es) =>
    simp only [hc] at hl
    rcases hl with ⟨hlen, hk, hidx, hres, hcons, h7⟩ | ⟨hel, hloop, hres⟩
    · exact .inr (.inl ⟨es, rfl, hidx, he, hc, hlen, hk, by simp [hidx, hres], by simp [hcons], h7⟩)
    · have hne : s.work.idx ≠ 0 := fun h0 => by simp [elementLegal, h0] at hel
      exact .inr (.inr (.inl ⟨es, rfl, hne, he, by simpa only [waitingCommandLegal, hc] using hel, hloop, hres⟩))

theorem runOn_keepsInv {s : State} (h : Inv s) (hb : s.ctrl = .busy) : KeepsInv (runOn s) := by
  rcases executing_cases h hb with ⟨n, hc, hl⟩ | ⟨es, hc, hi, hbe⟩ | ⟨es, hc, hi, hl⟩ | ⟨hc, he⟩
  · rw [runOn_read hc]
    exact finishRead_keepsInv (readLoop_legal hl (Nat.le_refl _))
  · rw [runOn_batch_start hc hi]
    exact fieldsLoop_keepsInv hbe (by simp [hi])
  · rw [runOn_element hc hi]
    exact afterElement_keepsInv hc (readLoop_legal hl (Nat.le_refl _)) fun t ht hidx =>
      fieldsLoop_keepsInv ht (by rw [hidx])
  · rw [runOn_init hc]
    exact keepsInv_next he.inv_finishInit

/-- What a turn comes to for the step, if a ReadCore that is over goes on as `finish` says. -/
def endTurn (finish : CoreResult → Result) : LoopTurn → Result
  | .more u => .next u
  | .ends res => finish res

/-- One turn of a READ (41_read R108, R110). -/
theorem commandTurn_of_read {s : State} {n : Width} (hc : s.cur = some (.read n)) :
    commandTurn s = endTurn finishRead (readTurn s) := by
  simp only [commandTurn, hc]
  cases readTurn s <;> rfl

/-- One turn of a batch before its first element (42_read_fields R121). -/
theorem commandTurn_of_batch_start {s : State} {es : List CmdWord} (hc : s.cur = some (.fields es))
    (hi : s.work.idx = 0) : commandTurn s = enterNextElement es s := by
  simp only [commandTurn, hc, hi, if_true]

/-- One turn of a batch inside an element (42_read_fields R125). -/
theorem commandTurn_of_element {s : State} {es : List CmdWord} (hc : s.cur = some (.fields es)) (hi : s.work.idx ≠ 0) :
    commandTurn s = endTurn (fun res => afterElement res (enterNextElement es)) (readTurn s) := by
  simp only [commandTurn, hc, if_neg hi]
  cases readTurn s <;> rfl

/-- The one turn of INIT (40_init R80). -/
theorem commandTurn_of_init {s : State} (hc : s.cur = some .init) : commandTurn s = .next (finishInit s) := by
  simp only [commandTurn, hc]

theorem endTurn_keepsInv {finish : CoreResult → Result} {s : State} {turn : LoopTurn} (h : TurnLegal s turn)
    (hfin : ∀ res, CoreLegal s res → KeepsInv (finish res)) : KeepsInv (endTurn finish turn) := by
  cases turn with
  | more u =>
    obtain ⟨hu, _⟩ := h
    exact keepsInv_next hu.inv
  | ends res => exact hfin res h

theorem commandTurn_keepsInv {s : State} (h : Inv s) (hb : s.ctrl = .busy) : KeepsInv (commandTurn s) := by
  rcases executing_cases h hb with ⟨n, hc, hl⟩ | ⟨es, hc, hi, hbe⟩ | ⟨es, hc, hi, hl⟩ | ⟨hc, he⟩
  · rw [commandTurn_of_read hc]
    exact endTurn_keepsInv (readTurn_legal hl) fun _ => finishRead_keepsInv
  · rw [commandTurn_of_batch_start hc hi]
    exact enterNextElement_keepsInv hbe
  · rw [commandTurn_of_element hc hi]
    exact endTurn_keepsInv (readTurn_legal hl) fun _ hres =>
      afterElement_keepsInv hc hres fun _ ht _ => enterNextElement_keepsInv ht
  · rw [commandTurn_of_init hc]
    exact keepsInv_next he.inv_finishInit

/-! ## The step -/

/-- The outcome an action comes to. -/
def Action.outcome : Action → Result
  | .run i s => exec i s
  | .done o => o

theorem step_eq_outcome (s : State) : step s = (nextAction s).outcome := by
  cases h : nextAction s with
  | run i t => exact step_of_run h
  | done o => exact step_of_done h

/-- A step without a move to come (20_memory R41, U8). -/
theorem step_of_env_nil {s : State} (he : s.env = []) : step s = if running s then runOn s else .next s := by
  rw [step_eq_outcome]
  simp only [nextAction, he]
  split <;> rfl

/-- A step with `e` as the next move (20_memory R52). -/
theorem step_of_env_cons {s : State} {e : EnvEvent} {rest : List EnvEvent} (he : s.env = e :: rest) :
    step s =
      if running s ∧ atAnyTime e = false then runOn s else (receive e { s with env := rest }).outcome := by
  rw [step_eq_outcome]
  simp only [nextAction, he]
  split <;> rfl

theorem ctrl_of_running {s : State} (h : running s = true) : s.ctrl = .busy := (of_decide_eq_true h).1

theorem inv_with_moves {s : State} (h : Inv s) (env : List EnvEvent) : Inv { s with env := env } :=
  ⟨h.faults, h.requests, h.boundary, h.wait, h.busy⟩

/-- A core at a command boundary does not read its binding. -/
theorem inv_with_source {s : State} (h : Inv s) (hc : s.ctrl = .idle) (src : Source) : Inv { s with source := src } :=
  ⟨h.faults, h.requests, h.boundary, fun hw => (by simp [hc] at hw), h.busy⟩

/-- Hardware reset leaves a command boundary (10_state R35, 70_reset_and_hazards R170). -/
theorem inv_hardwareReset {s : State} (h : requestsLegal s) : Inv (hardwareReset s) where
  faults := .inl ⟨rfl, rfl, rfl⟩
  requests := h
  boundary := fun _ => ⟨Nat.zero_le _, rfl, rfl⟩
  wait := by rintro ⟨⟩
  busy := by rintro ⟨⟩

/-- Every move of the environment. -/
theorem receive_keepsInv {s : State} (h : Inv s) (e : EnvEvent) : KeepsInv (receive e s).outcome := by
  cases e with
  | command ws =>
    simp only [receive, offer]
    cases hd : decode ws with
    | instr i =>
      have hi := wellFormed_of_decode hd
      obtain ⟨f, hf⟩ := exec_eq_accept i s
      simp only [Action.outcome, hf]
      exact accept_keepsInv h fun hr => by rw [← accept_ready hr f, ← hf]; exact exec_keepsInv h hr hi
    | rejected er => exact rejectTransaction_keepsInv h er
  | commandHeld ws =>
    simp only [receive, offerHeld, Action.outcome]
    cases hd : decode ws with
    | instr i => exact accept_keepsInv h fun hr => startCommand_keepsInv h hr (wellFormed_of_decode hd)
    | rejected er => exact rejectTransaction_keepsInv h er
  | answer r => exact deliverAnswer_keepsInv h r
  | answerHeld r => exact deliverAnswerHeld_keepsInv h r
  | turn =>
    simp only [receive, Action.outcome]
    split
    · exact commandTurn_keepsInv h (ctrl_of_running ‹_›)
    · exact keepsInv_next h
  | abandonedAnswer r => exact keepsInv_next h
  | reset => exact keepsInv_next (inv_hardwareReset h.requests)
  | readStatus => exact keepsInv_next ⟨h.faults, h.requests, h.boundary, h.wait, h.busy⟩
  | bind src =>
    simp only [receive, bindSource, Action.outcome]
    split
    · exact keepsInv_next (inv_with_source h ‹_› src)
    · exact keepsInv_refused _
  | foreignConsume => exact keepsInv_refused _

/-- A step is an executing command running on, or a move of the environment. -/
theorem step_keepsInv {s : State} (h : Inv s) : KeepsInv (step s) := by
  have hrun : running s = true → KeepsInv (runOn s) := fun hr => runOn_keepsInv h (ctrl_of_running hr)
  cases he : s.env with
  | nil =>
    rw [step_of_env_nil he]
    split
    · exact hrun ‹_›
    · exact keepsInv_next h
  | cons e rest =>
    rw [step_of_env_cons he]
    split
    · rename_i hr
      exact hrun hr.1
    · exact receive_keepsInv (inv_with_moves h rest) e

/-- Settles O56: each part of a command leads from a legal state of an executing core to another, to a wait, or to a
command boundary. -/
theorem stepKeepsTheInvariant : Obligations.StepKeepsTheInvariant := fun _ t h hs => step_keepsInv h t hs

/-- Settles O55: the state after reset is what hardware reset makes of it. -/
theorem resetStateSatisfiesTheInvariant : Obligations.ResetStateSatisfiesTheInvariant :=
  inv_hardwareReset (s := State.reset) (List.forall_mem_nil _)

end Sys2Proof.Machine
end

section
/-! The stale bits ACC[63:RCNT] are never observed: putting them to zero commutes with every part of a step, up to stale
bits (10_state R23, R24, 41_read R96, R102). -/
namespace Sys2Proof.Machine
open Safety

/-! ## The stale bits put to zero -/

@[simp] theorem dropStale_rcnt (s : State) : (dropStale s).rcnt = s.rcnt := rfl
@[simp] theorem dropStale_request (s : State) : (dropStale s).request = s.request := rfl
@[simp] theorem dropStale_work (s : State) : (dropStale s).work = s.work := rfl
@[simp] theorem dropStale_cur (s : State) : (dropStale s).cur = s.cur := rfl
@[simp] theorem dropStale_source (s : State) : (dropStale s).source = s.source := rfl
@[simp] theorem dropStale_env (s : State) : (dropStale s).env = s.env := rfl

/-- The residue is what is left of ACC (10_state R22). -/
theorem dropStale_acc_toNat (s : State) : (dropStale s).acc.toNat = s.acc.toNat % 2 ^ s.rcnt.toNat := by
  rw [dropStale, BitVec.toNat_ofNat]
  exact Nat.mod_eq_of_lt ((Nat.mod_le _ _).trans_lt s.acc.isLt)

/-- A residue that is not longer than before has no bit that was stale. -/
theorem mod_two_pow_of_le {r r' : Nat} (acc : Nat) (h : r' ≤ r) : acc % 2 ^ r % 2 ^ r' = acc % 2 ^ r' :=
  Nat.mod_mod_of_dvd _ (Nat.pow_dvd_pow 2 h)

@[simp] theorem dropStale_dropStale (s : State) : dropStale (dropStale s) = dropStale s := by
  have h := mod_two_pow_of_le s.acc.toNat (Nat.le_refl s.rcnt.toNat)
  rw [dropStale, dropStale_acc_toNat, dropStale_rcnt, h]
  rfl

/-- What a ReadCore came to, with the stale bits put to zero. -/
def CoreResult.dropStale : CoreResult → CoreResult
  | .done st v e s => .done st v e (Safety.dropStale s)
  | .waiting s => .waiting (Safety.dropStale s)
  | .raised s => .raised (Safety.dropStale s)
  | .broken f => .broken f

/-- What a turn came to, with the stale bits put to zero. -/
def LoopTurn.dropStale : LoopTurn → LoopTurn
  | .more s => .more (Safety.dropStale s)
  | .ends res => .ends res.dropStale

/-- What a request came to, with the stale bits put to zero. -/
def PortResult.dropStale : PortResult → PortResult
  | .answered r s => .answered r (Safety.dropStale s)
  | .waiting s => .waiting (Safety.dropStale s)
  | .broken f => .broken f

/-- What `f` comes to, up to stale bits, does not depend on stale bits. -/
def StaleBlind (f : State → Result) : Prop := ∀ s, dropStaleResult (f (dropStale s)) = dropStaleResult (f s)

/-- Two states that differ in stale bits only have one state with those bits zero, which speaks for both. -/
theorem eq_of_dropStale_eq {α : Type} {f : State → α} (h : ∀ s, f (dropStale s) = f s) {s s' : State}
    (e : dropStale s = dropStale s') : f s = f s' := by
  rw [← h s, e, h s']

/-- What is the same state up to stale bits is the same next state. -/
theorem dropStaleResult_next {s s' : State} (h : dropStale s = dropStale s') :
    dropStaleResult (.next s) = dropStaleResult (.next s') := by
  rw [dropStaleResult, dropStaleResult, h]

theorem dropStaleResult_next_dropStale (s : State) :
    dropStaleResult (.next (dropStale s)) = dropStaleResult (.next s) :=
  dropStaleResult_next (dropStale_dropStale s)

theorem next_staleBlind : StaleBlind .next := dropStaleResult_next_dropStale

/-- A case distinction that does not look at stale bits. -/
theorem ite_staleBlind {p : State → Prop} [DecidablePred p] {f g : State → Result} (hp : ∀ s, p (dropStale s) ↔ p s)
    (hf : StaleBlind f) (hg : StaleBlind g) : StaleBlind fun s => if p s then f s else g s := by
  intro s
  by_cases h : p s
  · simp only [if_pos h, if_pos ((hp s).mpr h), hf s]
  · simp only [if_neg h, if_neg (mt (hp s).mp h), hg s]

/-! ## The masking unit and the loop -/

/-- The masking unit takes a chunk out of the residue alone (41_read R96). -/
theorem chunk_residue {acc r m : Nat} (h : m ≤ r) : chunk (acc % 2 ^ r) r m = chunk acc r m := by
  have hr : 2 ^ r = 2 ^ (r - m) * 2 ^ m := by rw [← pow_add, Nat.sub_add_cancel h]
  rw [chunk_eq, chunk_eq, hr, Nat.mod_mul_right_div_self, Nat.mod_mod]

/-- A chunk that is taken leaves less residue, and VAL knows nothing of the stale bits (41_read R96 to R100). -/
theorem takeChunk_dropStale (s : State) : dropStale (takeChunk (dropStale s)) = dropStale (takeChunk s) := by
  have hchunk := chunk_residue (acc := s.acc.toNat) (Nat.min_le_left s.rcnt.toNat s.work.rem.toNat)
  have hle : (takeChunk s).rcnt.toNat ≤ s.rcnt.toNat := by rw [takeChunk_rcnt_toNat]; omega
  have hres := mod_two_pow_of_le s.acc.toNat hle
  have htake : takeChunk (dropStale s) = { takeChunk s with acc := (dropStale s).acc } := by
    rw [takeChunk, dropStale_acc_toNat]
    simp only [dropStale_rcnt, dropStale_work, hchunk]
    rfl
  rw [htake, dropStale, dropStale_acc_toNat, hres]
  rfl

/-- The source port does not look at ACC (20_memory R41). -/
theorem sourceReadExact_dropStale (k : Nat) (s : State) :
    sourceReadExact k (dropStale s) = (sourceReadExact k s).dropStale := by
  simp only [sourceReadExact, dropStale_source, dropStale_env]
  cases s.source with
  | reference held => rfl
  | external =>
    rcases s.env with _ | ⟨e, rest⟩
    · rfl
    · cases e with
      | answer r => by_cases hf : r.fits k = true <;> simp only [hf, if_true] <;> rfl
      | _ => rfl

/-- One turn: a refill replaces ACC, and a chunk is of the residue (41_read R93, R96). -/
theorem readTurn_dropStale (s : State) : (readTurn (dropStale s)).dropStale = (readTurn s).dropStale := by
  simp only [readTurn, dropStale_work, dropStale_rcnt, sourceReadExact_dropStale]
  by_cases h0 : s.work.rem = 0
  · simp only [if_pos h0, LoopTurn.dropStale, CoreResult.dropStale, dropStale_dropStale]
  by_cases hr : s.rcnt = 0
  · simp only [if_neg h0, if_pos hr]
    cases sourceReadExact (refillSize s.work.rem.toNat) s with
    | answered r u =>
      cases r with
      | ok bs => rfl
      | _ => simp [PortResult.dropStale, onAnswer, LoopTurn.dropStale, CoreResult.dropStale]
    | waiting u => simp [PortResult.dropStale, LoopTurn.dropStale, CoreResult.dropStale]
    | broken f => rfl
  · simp only [if_neg h0, if_neg hr, LoopTurn.dropStale, takeChunk_dropStale]

/-- Two turns that are the same up to stale bits both go on, or both end. -/
theorem turn_cases_of_dropStale_eq {turn turn' : LoopTurn} (h : turn.dropStale = turn'.dropStale) :
    (∃ u u', turn = .more u ∧ turn' = .more u' ∧ dropStale u = dropStale u') ∨
    (∃ res res' : CoreResult, turn = .ends res ∧ turn' = .ends res' ∧ res.dropStale = res'.dropStale) := by
  cases turn with
  | more u =>
    cases turn' with
    | more u' => exact .inl ⟨u, u', rfl, rfl, LoopTurn.more.inj h⟩
    | ends res' => simp only [LoopTurn.dropStale, reduceCtorEq] at h
  | ends res =>
    cases turn' with
    | more u' => simp only [LoopTurn.dropStale, reduceCtorEq] at h
    | ends res' => exact .inr ⟨res, res', rfl, rfl, LoopTurn.ends.inj h⟩

theorem readLoop_dropStale_eq {fuel : Nat} {s s' : State} (h : dropStale s = dropStale s') :
    (readLoop fuel s).dropStale = (readLoop fuel s').dropStale := by
  induction fuel generalizing s s' with
  | zero =>
    have hv : s.work.val = s'.work.val := congrArg (fun t => t.work.val) h
    simp only [readLoop, CoreResult.dropStale, h, hv]
  | succ fuel ih =>
    have hturn := eq_of_dropStale_eq (f := fun s => (readTurn s).dropStale) readTurn_dropStale h
    rw [readLoop, readLoop]
    generalize readTurn s = turn at hturn ⊢
    generalize readTurn s' = turn' at hturn ⊢
    rcases turn_cases_of_dropStale_eq hturn with ⟨u, u', rfl, rfl, hu⟩ | ⟨res, res', rfl, rfl, hres⟩
    · exact ih hu
    · exact hres

theorem readLoop_dropStale (fuel : Nat) (s : State) :
    (readLoop fuel (dropStale s)).dropStale = (readLoop fuel s).dropStale :=
  readLoop_dropStale_eq (dropStale_dropStale s)

theorem readCore_dropStale (w : CmdWord) (n : Width) (s : State) :
    (readCore w n (dropStale s)).dropStale = (readCore w n s).dropStale := by
  rw [readCore, readCore]
  split
  · simp only [CoreResult.dropStale]
    exact congrArg CoreResult.raised (dropStale_dropStale (raiseFatal .contractViolation w s))
  · exact readLoop_dropStale _ (enterCore n s)

/-- A waiting ReadCore that goes on (20_memory R41 step 3). -/
theorem resumeCore_dropStale (r : SrcResponse) (s : State) :
    (resumeCore r (dropStale s)).dropStale = (resumeCore r s).dropStale := by
  cases r with
  | ok bs => rfl
  | _ => simp [resumeCore, onAnswer, CoreResult.dropStale]

/-! ## Commands -/

/-- The stale bits of what a ReadCore came to are not looked at by a READ. -/
theorem finishRead_dropStale (res : CoreResult) :
    dropStaleResult (finishRead res.dropStale) = dropStaleResult (finishRead res) := by
  cases res with
  | done st v e s => exact dropStaleResult_next_dropStale (respond (valueResponse st v e) s)
  | waiting s => exact dropStaleResult_next_dropStale s
  | raised s => exact dropStaleResult_next_dropStale s
  | broken f => rfl

/-- Nor by a batch, if what goes on with it does not. -/
theorem afterElement_dropStale {goOn : State → Result} (hgo : StaleBlind goOn) (res : CoreResult) :
    dropStaleResult (afterElement res.dropStale goOn) = dropStaleResult (afterElement res goOn) := by
  cases res with
  | done st v e s =>
    by_cases hst : st = .ok
    · subst hst
      exact hgo (recordField v s)
    · rw [CoreResult.dropStale, afterElement_failed hst, afterElement_failed hst]
      exact dropStaleResult_next_dropStale (respond _ s)
  | waiting s => exact dropStaleResult_next_dropStale s
  | raised s => exact dropStaleResult_next_dropStale s
  | broken f => rfl

theorem finishRead_eq_of_dropStale_eq {res res' : CoreResult} (h : res.dropStale = res'.dropStale) :
    dropStaleResult (finishRead res) = dropStaleResult (finishRead res') := by
  rw [← finishRead_dropStale res, h, finishRead_dropStale]

theorem afterElement_eq_of_dropStale_eq {goOn : State → Result} (hgo : StaleBlind goOn) {res res' : CoreResult}
    (h : res.dropStale = res'.dropStale) :
    dropStaleResult (afterElement res goOn) = dropStaleResult (afterElement res' goOn) := by
  rw [← afterElement_dropStale hgo res, h, afterElement_dropStale hgo]

/-- The elements still to come, by induction. -/
theorem fieldsLoop_staleBlind (es : List CmdWord) : StaleBlind (fieldsLoop es) := by
  induction es with
  | nil => exact fun s => dropStaleResult_next_dropStale (respond _ s)
  | cons w es ih =>
    intro s
    cases hd : decodeElement w with
    | none =>
      rw [fieldsLoop_illegal hd, fieldsLoop_illegal hd]
      exact dropStaleResult_next_dropStale (raiseFatal .illegalCommand w (nextElement s))
    | some n =>
      rw [fieldsLoop_cons hd, fieldsLoop_cons hd]
      exact afterElement_eq_of_dropStale_eq ih (readCore_dropStale w n (nextElement s))

theorem enterNextElement_staleBlind (es : List CmdWord) : StaleBlind (enterNextElement es) := by
  intro s
  unfold enterNextElement
  simp only [dropStale_work]
  cases es.drop s.work.idx.toNat with
  | nil => exact dropStaleResult_next_dropStale (respond _ s)
  | cons w rest =>
    cases hd : decodeElement w with
    | none =>
      simp only [hd]
      exact dropStaleResult_next_dropStale (raiseFatal .illegalCommand w (nextElement s))
    | some n =>
      simp only [hd]
      split
      · exact dropStaleResult_next_dropStale (raiseFatal .contractViolation w (nextElement s))
      · exact dropStaleResult_next_dropStale (enterCore n (nextElement s))

/-- INIT leaves no residue, so all of ACC is stale (40_init R80, 10_state R24). -/
theorem dropStale_finishInit (s : State) : dropStale (finishInit s) = { finishInit s with acc := 0 } := by
  simp [dropStale, Nat.mod_one]

theorem finishInit_staleBlind : StaleBlind fun s => .next (finishInit s) := by
  intro s
  have h : dropStale (finishInit (dropStale s)) = dropStale (finishInit s) := by
    rw [dropStale_finishInit, dropStale_finishInit]
    rfl
  exact dropStaleResult_next h

theorem accept_staleBlind {run : State → Result} (h : StaleBlind run) : StaleBlind fun s => accept s run :=
  ite_staleBlind (p := fun s => s.fault = 1#1) (fun _ => Iff.rfl) next_staleBlind
    (ite_staleBlind (p := fun s => s.ctrl = .idle) (fun _ => Iff.rfl) h fun _ => rfl)

theorem exec_staleBlind (i : Instr) : StaleBlind (exec i) := by
  cases i with
  | read n =>
    exact accept_staleBlind fun s => finishRead_eq_of_dropStale_eq (readCore_dropStale _ n (begin (.read n) s))
  | fields es =>
    exact accept_staleBlind fun s => fieldsLoop_staleBlind es (enterBatch es.length (begin (.fields es) s))
  | init => exact accept_staleBlind fun s => finishInit_staleBlind (begin .init s)

theorem startCommand_staleBlind (i : Instr) : StaleBlind (startCommand i) := by
  intro s
  cases i with
  | read n =>
    simp only [startCommand]
    split
    · exact dropStaleResult_next_dropStale (raiseFatal .contractViolation _ (begin (.read n) s))
    · exact dropStaleResult_next_dropStale (enterCore n (begin (.read n) s))
  | fields es => exact dropStaleResult_next_dropStale (enterBatch es.length (begin (.fields es) s))
  | init => exact dropStaleResult_next_dropStale (begin .init s)

/-- Which command goes on after its ReadCore, and at which element, is not in ACC. -/
theorem continueCommand_dropStale (s : State) (res : CoreResult) :
    continueCommand (dropStale s) res = continueCommand s res := by
  simp only [continueCommand, dropStale_cur, dropStale_work]

/-- A command in execution goes on after its ReadCore, whatever the stale bits of its result. -/
theorem continueCommand_dropStale_eq (s : State) {res res' : CoreResult} (h : res.dropStale = res'.dropStale) :
    dropStaleResult (continueCommand s res) = dropStaleResult (continueCommand s res') := by
  unfold continueCommand
  split
  · exact finishRead_eq_of_dropStale_eq h
  · exact afterElement_eq_of_dropStale_eq (fieldsLoop_staleBlind _) h
  · rfl
  · rfl

theorem runOn_staleBlind : StaleBlind runOn := by
  intro s
  have hloop := readLoop_dropStale s.work.rem.toNat s
  match hc : s.cur with
  | none => simp only [runOn, dropStale_cur, hc]
  | some .init =>
    rw [runOn_init hc, runOn_init (s := dropStale s) hc]
    exact finishInit_staleBlind s
  | some (.read n) =>
    rw [runOn_read hc, runOn_read (s := dropStale s) hc]
    exact finishRead_eq_of_dropStale_eq hloop
  | some (.fields es) =>
    by_cases hi : s.work.idx = 0
    · rw [runOn_batch_start hc hi, runOn_batch_start (s := dropStale s) hc hi]
      exact fieldsLoop_staleBlind es s
    · rw [runOn_element hc hi, runOn_element (s := dropStale s) hc hi]
      exact afterElement_eq_of_dropStale_eq (fieldsLoop_staleBlind _) hloop

/-- A command's turn, whatever it makes of the end of its ReadCore. -/
theorem endTurn_eq_of_dropStale_eq {finish : CoreResult → Result} {turn turn' : LoopTurn}
    (h : turn.dropStale = turn'.dropStale)
    (hfin : ∀ res res' : CoreResult, res.dropStale = res'.dropStale →
      dropStaleResult (finish res) = dropStaleResult (finish res')) :
    dropStaleResult (endTurn finish turn) = dropStaleResult (endTurn finish turn') := by
  rcases turn_cases_of_dropStale_eq h with ⟨u, u', rfl, rfl, hu⟩ | ⟨res, res', rfl, rfl, hres⟩
  · exact dropStaleResult_next hu
  · exact hfin _ _ hres

theorem commandTurn_staleBlind : StaleBlind commandTurn := by
  intro s
  have hturn := readTurn_dropStale s
  match hc : s.cur with
  | none => simp only [commandTurn, dropStale_cur, hc]
  | some .init =>
    rw [commandTurn_of_init hc, commandTurn_of_init (s := dropStale s) hc]
    exact finishInit_staleBlind s
  | some (.read n) =>
    rw [commandTurn_of_read hc, commandTurn_of_read (s := dropStale s) hc]
    exact endTurn_eq_of_dropStale_eq hturn fun _ _ => finishRead_eq_of_dropStale_eq
  | some (.fields es) =>
    by_cases hi : s.work.idx = 0
    · rw [commandTurn_of_batch_start hc hi, commandTurn_of_batch_start (s := dropStale s) hc hi]
      exact enterNextElement_staleBlind es s
    · rw [commandTurn_of_element hc hi, commandTurn_of_element (s := dropStale s) hc hi]
      exact endTurn_eq_of_dropStale_eq hturn fun _ _ =>
        afterElement_eq_of_dropStale_eq (enterNextElement_staleBlind es)

/-! ## Answers and the step -/

/-- An answer, if what the core does with it, once it has taken it, does not look at stale bits. -/
theorem answerRequest_staleBlind {r : SrcResponse} {act : State → State → Result}
    (h : ∀ s, dropStaleResult (act (dropStale s) (dropStale (takeAnswer s))) = dropStaleResult (act s (takeAnswer s))) :
    StaleBlind fun s => answerRequest r s (act s) := by
  intro s
  have hsome : ∀ k, StaleBlind fun s =>
      if s.fault = 0 ∧ s.ctrl = .waitSrc then
        if r.fits k then act s (takeAnswer s) else .fault .malformedAnswer
      else .fault .unsolicitedAnswer := fun k =>
    ite_staleBlind (p := fun s => s.fault = 0 ∧ s.ctrl = .waitSrc) (fun _ => Iff.rfl)
      (ite_staleBlind (p := fun _ => r.fits k = true) (fun _ => Iff.rfl) h fun _ => rfl) fun _ => rfl
  simp only [answerRequest, dropStale_request]
  cases s.request with
  | none => rfl
  | some k => exact hsome k s

theorem deliverAnswer_staleBlind (r : SrcResponse) : StaleBlind (deliverAnswer r) := by
  refine answerRequest_staleBlind fun s => ?_
  rw [continueCommand_dropStale]
  exact continueCommand_dropStale_eq s (resumeCore_dropStale r (takeAnswer s))

theorem deliverAnswerHeld_staleBlind (r : SrcResponse) : StaleBlind (deliverAnswerHeld r) := by
  refine answerRequest_staleBlind fun s => ?_
  cases r with
  | ok bs => rfl
  | _ =>
    simp only [onAnswer, continueCommand_dropStale, dropStale_work]
    exact continueCommand_dropStale_eq s (by simp only [CoreResult.dropStale, dropStale_dropStale])

theorem rejectTransaction_staleBlind (e : DecodeError) : StaleBlind (rejectTransaction e) := by
  intro s
  unfold rejectTransaction
  split
  · rename_i w _
    exact accept_staleBlind (run := fun s => .next (raiseFatal .illegalCommand w s))
      (fun s => dropStaleResult_next_dropStale (raiseFatal .illegalCommand w s)) s
  · exact accept_staleBlind (fun _ => rfl) s

/-- Every move of the environment. -/
theorem receive_staleBlind (e : EnvEvent) : StaleBlind fun s => (receive e s).outcome := by
  intro s
  cases e with
  | command ws =>
    simp only [receive, offer]
    cases decode ws with
    | instr i => exact exec_staleBlind i s
    | rejected er => exact rejectTransaction_staleBlind er s
  | commandHeld ws =>
    simp only [receive, offerHeld]
    cases decode ws with
    | instr i => exact accept_staleBlind (startCommand_staleBlind i) s
    | rejected er => exact rejectTransaction_staleBlind er s
  | answer r => exact deliverAnswer_staleBlind r s
  | answerHeld r => exact deliverAnswerHeld_staleBlind r s
  | turn =>
    exact ite_staleBlind (p := fun s => running s = true) (fun _ => Iff.rfl) commandTurn_staleBlind next_staleBlind s
  | abandonedAnswer r => exact dropStaleResult_next_dropStale s
  | reset => rfl
  | readStatus => exact dropStaleResult_next_dropStale (readStatusView s)
  | bind src =>
    exact ite_staleBlind (p := fun s => s.ctrl = .idle) (f := fun s => .next { s with source := src })
      (g := fun _ => .refused .bindWhileBusy) (fun _ => Iff.rfl)
      (fun s => dropStaleResult_next_dropStale { s with source := src }) (fun _ => rfl) s
  | foreignConsume => rfl

theorem step_staleBlind : StaleBlind step := by
  intro s
  cases he : s.env with
  | nil =>
    rw [step_of_env_nil he, step_of_env_nil (s := dropStale s) he]
    exact ite_staleBlind (p := fun s => running s = true) (fun _ => Iff.rfl) runOn_staleBlind next_staleBlind s
  | cons e rest =>
    rw [step_of_env_cons he, step_of_env_cons (s := dropStale s) he]
    exact ite_staleBlind (p := fun s => running s = true ∧ atAnyTime e = false)
      (g := fun s => (receive e { s with env := rest }).outcome) (fun _ => Iff.rfl) runOn_staleBlind
      (fun s => receive_staleBlind e { s with env := rest }) s

/-- Settles O57: the two states have one state with zero stale bits, and a step on that state comes, up to stale bits, to
what it comes to on each of them. -/
theorem staleAccumulatorBitsAreNeverObserved : Obligations.StaleAccumulatorBitsAreNeverObserved := fun _ _ h =>
  eq_of_dropStale_eq (f := fun s => dropStaleResult (step s)) step_staleBlind h

end Sys2Proof.Machine
end

section
/-! What no command touches: the frame of a ReadCore, and by induction over the elements that of a batch (10_state R25,
R30, 20_memory R40, R53, 60_exceptions R146). -/
namespace Sys2Proof.Machine
open Safety

/-- How a part of a command may leave the fault registers and the responses: as they were, with one more response, or
faulted without one (20_memory R53, 60_exceptions R146). -/
def EndsOnce (s t : State) : Prop :=
  (sameFaults s t ∧ (t.responses = s.responses ∨ ∃ r, t.responses = s.responses ++ [r])) ∨
    (s.fault ≠ 1 ∧ t.fault = 1 ∧ (t.faultCause = 4 ∨ t.faultCause = 5) ∧ t.responses = s.responses)

/-- What every part of a command keeps. -/
structure CommandFrame (s t : State) : Prop where
  stat : t.statusReads = s.statusReads
  ends : EndsOnce s t
  env : ∃ taken : List SrcResponse, s.env = taken.map .answer ++ t.env
  ext : s.source = .external → t.source = .external
  ref : ∀ held, s.source = .reference held → ∃ j, t.source = .reference (held.drop j)

/-- What uses no port. -/
theorem commandFrame_of_same_port {s t : State} (hends : EndsOnce s t) (hstat : t.statusReads = s.statusReads)
    (henv : t.env = s.env) (hsrc : t.source = s.source) : CommandFrame s t where
  stat := hstat
  ends := hends
  env := ⟨[], henv.symm⟩
  ext := fun h => hsrc.trans h
  ref := fun _ h => ⟨0, hsrc.trans h⟩

theorem commandFrame_refl (s : State) : CommandFrame s s :=
  commandFrame_of_same_port (.inl ⟨⟨rfl, rfl, rfl⟩, .inl rfl⟩) rfl rfl rfl

/-- A command that ends gives one response (20_memory R53). -/
theorem commandFrame_respond (r : Response) (s : State) : CommandFrame s (respond r s) :=
  commandFrame_of_same_port (.inl ⟨⟨rfl, rfl, rfl⟩, .inr ⟨r, rfl⟩⟩) rfl rfl rfl

/-- A fatal fault gives none (60_exceptions R146). -/
theorem commandFrame_raiseFatal {s : State} (hf : s.fault ≠ 1) (c : FatalCause) (w : CmdWord) :
    CommandFrame s (raiseFatal c w s) :=
  commandFrame_of_same_port (.inr ⟨hf, rfl, by cases c <;> simp [FatalCause.code], rfl⟩) rfl rfl rfl

/-- What a part of a command keeps that gives no response and no fault. -/
structure SilentFrame (s t : State) : Prop where
  stat : t.statusReads = s.statusReads
  faults : sameFaults s t
  resp : t.responses = s.responses
  env : ∃ taken : List SrcResponse, s.env = taken.map .answer ++ t.env
  ext : s.source = .external → t.source = .external
  ref : ∀ held, s.source = .reference held → ∃ j, t.source = .reference (held.drop j)

/-- A ReadCore gives no response and no fault of its own (41_read R90 to R108). -/
theorem CoreEffect.silent {s t : State} (h : CoreEffect s t) : SilentFrame s t where
  stat := h.stat
  faults := ⟨h.fault, h.cause, h.info⟩
  resp := h.resp
  env := h.env
  ext := h.ext
  ref := h.ref

/-- What writes ACC, RCNT, CTRL, the command and the working registers only. -/
theorem silentFrame_of_registers {s t : State} (hstat : t.statusReads = s.statusReads) (hf : sameFaults s t)
    (hresp : t.responses = s.responses) (henv : t.env = s.env) (hsrc : t.source = s.source) : SilentFrame s t where
  stat := hstat
  faults := hf
  resp := hresp
  env := ⟨[], henv.symm⟩
  ext := fun h => hsrc.trans h
  ref := fun _ h => ⟨0, hsrc.trans h⟩

theorem silentFrame_begin (i : Instr) (s : State) : SilentFrame s (begin i s) :=
  silentFrame_of_registers rfl ⟨rfl, rfl, rfl⟩ rfl rfl rfl

theorem silentFrame_enterBatch (count : Nat) (s : State) : SilentFrame s (enterBatch count s) :=
  silentFrame_of_registers rfl ⟨rfl, rfl, rfl⟩ rfl rfl rfl

theorem silentFrame_nextElement (s : State) : SilentFrame s (nextElement s) :=
  silentFrame_of_registers rfl ⟨rfl, rfl, rfl⟩ rfl rfl rfl

theorem silentFrame_recordField (v : Word64) (s : State) : SilentFrame s (recordField v s) :=
  silentFrame_of_registers rfl ⟨rfl, rfl, rfl⟩ rfl rfl rfl

theorem silentFrame_emptyResidue (s : State) : SilentFrame s (emptyResidue s) :=
  silentFrame_of_registers rfl ⟨rfl, rfl, rfl⟩ rfl rfl rfl

theorem SilentFrame.commandFrame {s t : State} (h : SilentFrame s t) : CommandFrame s t where
  stat := h.stat
  ends := .inl ⟨h.faults, .inl h.resp⟩
  env := h.env
  ext := h.ext
  ref := h.ref

/-- What comes after a silent part adds to what that did on its port. -/
theorem SilentFrame.followedBy {s t u : State} (h : SilentFrame s u) (h' : CommandFrame u t) : CommandFrame s t where
  stat := h'.stat.trans h.stat
  ends := by
    obtain ⟨hf, hc, hi⟩ := h.faults
    have hends := h'.ends
    rw [EndsOnce, sameFaults, hf, hc, hi, h.resp] at hends
    exact hends
  env := by
    obtain ⟨as, has⟩ := h.env
    obtain ⟨bs, hbs⟩ := h'.env
    exact ⟨as ++ bs, by rw [has, hbs, List.map_append, List.append_assoc]⟩
  ext := fun hs => h'.ext (h.ext hs)
  ref := fun held hs => by
    obtain ⟨j, hj⟩ := h.ref held hs
    obtain ⟨k, hk⟩ := h'.ref _ hj
    exact ⟨j + k, by rw [hk, List.drop_drop]⟩

/-- The effect of a ReadCore that began in `s`, whatever it came to. -/
def CoreResult.effectFrom (s : State) : CoreResult → Prop
  | .done _ _ _ t => CoreEffect s t
  | .waiting t => CoreEffect s t
  | .raised t => s.fault ≠ 1 → CommandFrame s t
  | .broken _ => True

theorem readCore_effect (w : CmdWord) (n : Width) (s : State) : (readCore w n s).effectFrom s := by
  rcases readCore_cases w n s with
    ⟨_, e⟩ | ⟨_, _, t, e, ht, _⟩ | ⟨_, _, _, t, _, e, ht, _⟩ | ⟨_, _, t, _, e, ht, _⟩ | ⟨_, e, _⟩ <;> rw [e]
  · exact fun hf => commandFrame_raiseFatal hf _ _
  · exact ht
  · exact ht
  · exact ht
  · trivial

/-- A READ after its ReadCore (41_read R110). -/
theorem finishRead_frame {s t : State} {res : CoreResult} (hf : s.fault ≠ 1) (h : res.effectFrom s)
    (he : finishRead res = .next t) : CommandFrame s t := by
  cases res <;> cases he
  · exact h.silent.followedBy (commandFrame_respond _ _)
  · exact h.silent.commandFrame
  · exact h hf

/-- A batch after its element's ReadCore (42_read_fields R123 to R125). -/
theorem afterElement_frame {s t : State} {res : CoreResult} {goOn : State → Result} (hf : s.fault ≠ 1)
    (h : res.effectFrom s) (hgo : ∀ u t, u.fault ≠ 1 → goOn u = .next t → CommandFrame u t)
    (he : afterElement res goOn = .next t) : CommandFrame s t := by
  cases res with
  | done st v er u =>
    have hu : CoreEffect s u := h
    by_cases hst : st = .ok
    · subst hst
      have hfu : (recordField v u).fault ≠ 1 := by simpa [hu.fault] using hf
      exact hu.silent.followedBy ((silentFrame_recordField v u).followedBy (hgo _ t hfu he))
    · rw [afterElement_failed hst] at he
      cases he
      exact hu.silent.followedBy (commandFrame_respond _ _)
  | waiting u => cases he; exact h.silent.commandFrame
  | raised u => cases he; exact h hf
  | broken f => cases he

/-- The elements still to come, by induction. -/
theorem fieldsLoop_frame (es : List CmdWord) :
    ∀ s t : State, s.fault ≠ 1 → fieldsLoop es s = .next t → CommandFrame s t := by
  induction es with
  | nil => rintro s t - ⟨⟩; exact commandFrame_respond _ s
  | cons w es ih =>
    intro s t hf he
    refine (silentFrame_nextElement s).followedBy ?_
    cases hd : decodeElement w with
    | none =>
      rw [fieldsLoop_illegal hd] at he
      cases he
      exact commandFrame_raiseFatal (s := nextElement s) hf _ _
    | some n =>
      rw [fieldsLoop_cons hd] at he
      exact afterElement_frame (s := nextElement s) hf (readCore_effect w n (nextElement s)) ih he

/-- A transaction that leads to a next state has found a faulted core or a ready one (20_memory R52). -/
theorem accept_next {s t : State} {run : State → Result} (h : accept s run = .next t) :
    t = s ∨ (ready s ∧ run s = .next t) := by
  rcases BitVec.eq_zero_or_eq_one s.fault with hf | hf
  · by_cases hc : s.ctrl = .idle
    · rw [accept_ready ⟨hf, hc⟩] at h; exact .inr ⟨⟨hf, hc⟩, h⟩
    · rw [accept_busy hf hc] at h; cases h
  · rw [accept_faulted hf] at h; cases h; exact .inl rfl

/-- A command on a core that accepts it. -/
theorem exec_frame_of_ready {i : Instr} {s t : State} (hr : ready s) (he : exec i s = .next t) : CommandFrame s t := by
  have hf : s.fault ≠ 1 := by rw [hr.1]; decide
  refine (silentFrame_begin i s).followedBy ?_
  cases i with
  | read n =>
    rw [exec_read_ready hr] at he
    exact finishRead_frame (s := begin (.read n) s) hf (readCore_effect _ n _) he
  | fields es =>
    rw [exec_fields_ready hr] at he
    exact (silentFrame_enterBatch es.length _).followedBy
      (fieldsLoop_frame es (enterBatch es.length (begin (.fields es) s)) t hf he)
  | init =>
    rw [exec_init_ready hr] at he
    cases he
    exact (silentFrame_emptyResidue _).followedBy (commandFrame_respond _ _)

theorem exec_frame {i : Instr} {s t : State} (he : exec i s = .next t) : CommandFrame s t := by
  obtain ⟨f, hf⟩ := exec_eq_accept i s
  rcases accept_next (hf ▸ he) with rfl | ⟨hr, _⟩
  · exact commandFrame_refl t
  · exact exec_frame_of_ready hr he

/-- Settles O47: the frame of `exec`, which the parts of a command add up to. -/
theorem commandsKeepTheirFrame : Obligations.CommandsKeepTheirFrame := fun _ _ _ he =>
  have h := exec_frame he
  ⟨h.stat, h.ends, h.env, h.ext, h.ref⟩

end Sys2Proof.Machine
end

section
/-! What the working registers hold before a command is not observable in it: a ReadCore writes N, REM and VAL before it
reads them and reads no other, and a batch writes CONSUMED and RESULTS at its start (10_state R29, 41_read R90,
42_read_fields R120). -/
namespace Sys2Proof.Machine
open Safety

/-- The state with the batch's working registers of `b` and with `d` free values drawn; N, REM and VAL stay. -/
def swapBatch (b : Working) (d : Nat) (s : State) : State :=
  { s with work := { b with n := s.work.n, rem := s.work.rem, val := s.work.val }, draws := d }

/-- What a ReadCore came to, on a core that was in `swapBatch b d`; a fault that it raised has drawn a free value. -/
def CoreResult.swapBatch (b : Working) (d : Nat) : CoreResult → CoreResult
  | .done st v e s => .done st v e (Machine.swapBatch b d s)
  | .waiting s => .waiting (Machine.swapBatch b d s)
  | .raised s => .raised { s with work := Working.free d, draws := d + 1 }
  | .broken f => .broken f

theorem coreAnswer_swapBatch (b : Working) (d : Nat) (r : SrcResponse) (s : State) :
    coreAnswer r (swapBatch b d s) = (coreAnswer r s).swapBatch b d := by
  cases r <;> rfl

/-- The one request of a ReadCore (41_read R103). -/
theorem coreRequest_swapBatch (b : Working) (d k : Nat) (s : State) :
    coreRequest k (swapBatch b d s) = (coreRequest k s).swapBatch b d := by
  rcases sourceReadExact_cases k s with
    ⟨r, _, _, hfit, ⟨rest, hs, he, _⟩ | ⟨held, hs, _, _⟩⟩ | ⟨e, hs, hne⟩ | ⟨_, hs, r, rest, he, hfit⟩
  · rw [coreRequest_answer k hs he, coreRequest_answer (s := swapBatch b d s) k hs he, if_pos hfit, if_pos hfit,
      ← coreAnswer_swapBatch]
    rfl
  · rw [coreRequest_reference k hs, coreRequest_reference (s := swapBatch b d s) k hs, ← coreAnswer_swapBatch]
    rfl
  · rcases sourceReadExact_cases k (swapBatch b d s) with
      ⟨_, _, _, _, ⟨rest, _, he', _⟩ | ⟨held, hs', _, _⟩⟩ | ⟨e', _⟩ | ⟨_, _, r, rest, he', _⟩
    · exact absurd he' (hne _ rest)
    · exact absurd (hs.symm.trans hs') (by simp)
    · simp only [coreRequest, e, e']
      rfl
    · exact absurd he' (hne r rest)
  · rw [coreRequest_answer k hs he, coreRequest_answer (s := swapBatch b d s) k hs he]
    simp [hfit, CoreResult.swapBatch]

/-- A ReadCore is entered the same from any working registers (41_read R90). -/
theorem readCore_with_work (b : Working) (d : Nat) (w : CmdWord) (n : Width) (s : State) :
    readCore w n { s with work := b, draws := d } = (readCore w n s).swapBatch b d := by
  rw [readCore_shape, readCore_shape]
  by_cases h64 : 64 < n.toNat
  · rw [if_pos h64, if_pos h64]
    rfl
  by_cases hle : n.toNat ≤ s.rcnt.toNat
  · simp only [if_neg h64, if_pos hle]
    rfl
  · simp only [if_neg h64, if_neg hle]
    exact coreRequest_swapBatch b d _ (takeChunk (enterCore n s))

/-- The end of a READ shows nothing of the batch's registers (20_memory R53). -/
theorem finishRead_swapBatch (b : Working) (d : Nat) (res : CoreResult) :
    observeResult (finishRead (res.swapBatch b d)) = observeResult (finishRead res) := by
  cases res <;> rfl

/-- The working registers that a batch reads between two elements (42_read_fields R123, R125). -/
def sameBatch (b c : Working) : Prop := b.consumed = c.consumed ∧ b.results = c.results

/-- `goOn` shows nothing of the working registers but CONSUMED and RESULTS. -/
def ShowsOnlyBatch (goOn : State → Result) : Prop :=
  ∀ (s : State) (b : Working) (d : Nat), sameBatch b s.work →
    observeResult (goOn { s with work := b, draws := d }) = observeResult (goOn s)

/-- A batch after its element's ReadCore. -/
theorem afterElement_swapBatch {s : State} {b : Working} {d : Nat} {res : CoreResult} {goOn : State → Result}
    (hb : sameBatch b s.work) (h : res.effectFrom s) (hgo : ShowsOnlyBatch goOn) :
    observeResult (afterElement (res.swapBatch b d) goOn) = observeResult (afterElement res goOn) := by
  cases res with
  | done st v e u =>
    have hu : CoreEffect s u := h
    obtain ⟨hcons, hres⟩ := hb
    rw [← hu.cons] at hcons
    rw [← hu.res] at hres
    by_cases hst : st = .ok
    · subst hst
      refine hgo (recordField v u) (recordField v (swapBatch b d u)).work d ⟨?_, ?_⟩
      · exact congrArg (· + u.work.n.toNat) hcons
      · exact congrArg (· ++ [v]) hres
    · rw [CoreResult.swapBatch, afterElement_failed hst, afterElement_failed hst]
      have hcons' : (swapBatch b d u).work.consumed = u.work.consumed := hcons
      rw [hcons']
      rfl
  | waiting u => rfl
  | raised u => rfl
  | broken f => rfl

/-- The elements still to come, by induction. -/
theorem fieldsLoop_showsOnlyBatch (es : List CmdWord) : ShowsOnlyBatch (fieldsLoop es) := by
  induction es with
  | nil =>
    rintro s b d ⟨_, hres⟩
    simp only [fieldsLoop, hres]
    rfl
  | cons w es ih =>
    intro s b d hb
    cases hd : decodeElement w with
    | none =>
      rw [fieldsLoop_illegal hd, fieldsLoop_illegal hd]
      rfl
    | some n =>
      rw [fieldsLoop_cons hd, fieldsLoop_cons hd]
      have hcore := readCore_with_work { b with idx := b.idx + 1 } d w n (nextElement s)
      rw [show nextElement { s with work := b, draws := d } =
        { nextElement s with work := { b with idx := b.idx + 1 }, draws := d } from rfl, hcore]
      exact afterElement_swapBatch (s := nextElement s) hb (readCore_effect w n (nextElement s)) ih

/-- Settles O58: READ enters ReadCore, which overwrites what it reads; FIELDS enters its batch and then, element by element,
ReadCore; INIT reads no working register. -/
theorem workingRegistersAreNotObservable : Obligations.WorkingRegistersAreNotObservable := by
  intro i s w d hr
  have hr' : ready { s with work := w, draws := d } := hr
  cases i with
  | read n =>
    have hcore := readCore_with_work w d (encodeWidth n) n (begin (.read n) s)
    rw [exec_read_ready hr, exec_read_ready hr']
    exact (congrArg (fun res => observeResult (finishRead res)) hcore).trans (finishRead_swapBatch w d _)
  | fields es =>
    rw [exec_fields_ready hr, exec_fields_ready hr']
    exact fieldsLoop_showsOnlyBatch es (enterBatch es.length (begin (.fields es) s))
      { w with k := BitVec.ofNat 14 es.length, idx := 0, consumed := 0, results := [] } d ⟨rfl, rfl⟩
  | init =>
    rw [exec_init_ready hr, exec_init_ready hr']
    rfl

end Sys2Proof.Machine
end

section
/-! The state between commands: reset, a bind, and a command that is left at its start (10_state R21, R26, R30, R35). -/
namespace Sys2Proof.Machine
open Safety

/-- A transaction that is held leads to the start of its command (log entry 8). -/
theorem step_of_commandHeld {s : State} {ws : List CmdWord} {rest : List EnvEvent} {i : Instr} (hr : ready s)
    (henv : s.env = .commandHeld ws :: rest) (hd : decode ws = .instr i) :
    step s = startCommand i { s with env := rest } := by
  obtain ⟨_, hdone⟩ := step_of_move (.inl (running_of_ready hr)) henv
  have hr' : ready { s with env := rest } := hr
  rw [hdone _ rfl, offerHeld, hd]
  exact accept_ready hr' _

/-- Settles O9: each command's start, a READ's being the entry into its ReadCore. -/
theorem heldCommandIsLeftExecuting : Obligations.HeldCommandIsLeftExecuting := by
  intro s ws rest i hr henv hd h64
  rw [step_of_commandHeld hr henv hd]
  cases i with
  | read n =>
    have hn : ¬ Config.maxWidth < n.toNat := Nat.not_lt.mpr (h64 n rfl)
    refine ⟨enterCore n (begin (.read n) { s with env := rest }), if_neg hn, ?_⟩
    simp [sameFaults]
  | fields es =>
    refine ⟨enterBatch es.length (begin (.fields es) { s with env := rest }), rfl, ?_⟩
    simp [sameFaults]
  | init =>
    refine ⟨begin .init { s with env := rest }, rfl, ?_⟩
    simp [sameFaults]

/-- Settles O15: the values are those that `State.reset` writes out. -/
theorem resetStateHoldsTheResetValues : Obligations.ResetStateHoldsTheResetValues :=
  ⟨rfl, rfl, rfl, rfl, rfl, rfl, rfl⟩

/-- Settles O17: an idle core takes the bind as its next move and does nothing else. -/
theorem bindingChangesOnlyTheSource : Obligations.BindingChangesOnlyTheSource := by
  intro s src rest hc henv
  have hrun : running s = false := by simp [running, hc]
  obtain ⟨_, hdone⟩ := step_of_move (.inl hrun) henv
  rw [hdone _ rfl, bindSource, if_pos (show ({ s with env := rest } : State).ctrl = .idle from hc)]

end Sys2Proof.Machine
end

section
/-! What every transaction goes through first, held or not, whether it is a command or not (20_memory R52). -/
namespace Sys2Proof.Machine
open Safety

theorem rejectTransaction_eq_accept (e : DecodeError) (s : State) : ∃ run, rejectTransaction e s = accept s run := by
  rcases rejectTransaction_cases e s with ⟨_, _, h⟩ | ⟨_, h⟩ <;> exact ⟨_, h⟩

theorem offer_eq_accept (ws : List CmdWord) (s : State) : ∃ run, (offer ws s).outcome = accept s run := by
  rw [offer]
  cases decode ws with
  | instr i => exact exec_eq_accept i s
  | rejected e => exact rejectTransaction_eq_accept e s

theorem offerHeld_eq_accept (ws : List CmdWord) (s : State) : ∃ run, offerHeld ws s = accept s run := by
  rw [offerHeld]
  cases decode ws with
  | instr i => exact ⟨_, rfl⟩
  | rejected e => exact rejectTransaction_eq_accept e s

/-- A transaction as the next move of a core that executes nothing, if it comes to the same held or not. -/
theorem step_of_transaction {s : State} {ws : List CmdWord} {rest : List EnvEvent} {o : Result} (hrun : running s = false)
    (henv : s.env = .command ws :: rest ∨ s.env = .commandHeld ws :: rest)
    (hnow : (offer ws { s with env := rest }).outcome = o) (hheld : offerHeld ws { s with env := rest } = o) :
    step s = o := by
  rcases henv with henv | henv <;> rw [step_of_env_cons henv, if_neg (by simp [hrun])]
  · exact hnow
  · exact hheld

/-- So it does where the core accepts none (20_memory R52). -/
theorem step_of_unaccepted {s : State} {ws : List CmdWord} {rest : List EnvEvent} {o : Result} (hrun : running s = false)
    (henv : s.env = .command ws :: rest ∨ s.env = .commandHeld ws :: rest)
    (h : ∀ run, accept { s with env := rest } run = o) : step s = o := by
  obtain ⟨run, hnow⟩ := offer_eq_accept ws { s with env := rest }
  obtain ⟨run', hheld⟩ := offerHeld_eq_accept ws { s with env := rest }
  exact step_of_transaction hrun henv (hnow.trans (h run)) (hheld.trans (h run'))

/-- A faulted core does nothing with a transaction (60_exceptions R148). -/
theorem step_transaction_faulted {s : State} {ws : List CmdWord} {rest : List EnvEvent} (hf : s.fault = 1)
    (henv : s.env = .command ws :: rest ∨ s.env = .commandHeld ws :: rest) : step s = .next { s with env := rest } :=
  step_of_unaccepted (running_of_faulted hf) henv (accept_faulted (s := { s with env := rest }) hf)

/-- A core that waits accepts no transaction, whole or not (20_memory R52, R55). -/
theorem step_transaction_waiting {s : State} {ws : List CmdWord} {rest : List EnvEvent} (hf : s.fault = 0)
    (hc : s.ctrl = .waitSrc) (henv : s.env = .command ws :: rest ∨ s.env = .commandHeld ws :: rest) :
    step s = .refused .commandWhileBusy :=
  step_of_unaccepted (running_of_waiting hc) henv (accept_busy (s := { s with env := rest }) hf (by simp [hc]))

/-- A transaction without the words its header asks for (20_memory R55). -/
theorem step_transaction_incomplete {s : State} {ws : List CmdWord} {rest : List EnvEvent} (hr : ready s)
    (henv : s.env = .command ws :: rest ∨ s.env = .commandHeld ws :: rest) (hd : decode ws = .rejected .wrongLength) :
    step s = .refused .incompleteTransaction := by
  have hr' : ready { s with env := rest } := hr
  have hreject : rejectTransaction .wrongLength { s with env := rest } = .refused .incompleteTransaction :=
    accept_ready hr' fun _ => .refused .incompleteTransaction
  refine step_of_transaction (running_of_ready hr) henv ?_ ?_
  · rw [offer, hd]; exact hreject
  · rw [offerHeld, hd]; exact hreject

end Sys2Proof.Machine
end

section
/-! The source's error codes are only copied: renaming them commutes with every part of a step (20_memory R42,
60_exceptions R143, U6). -/
namespace Sys2Proof.Machine
open Safety

/-! ## Codes renamed in what the parts of a command come to -/

/-- A response to the host with its code renamed. -/
def renameResponse (g : Config.SrcErr → Config.SrcErr) (r : Response) : Response := { r with srcerr := r.srcerr.map g }

/-- What an answer does to a ReadCore, with its codes renamed. -/
def AnswerEffect.rename (g : Config.SrcErr → Config.SrcErr) : AnswerEffect → AnswerEffect
  | .refilled s => .refilled (renameState g s)
  | .failed st e => .failed st (e.map g)

/-- What a request came to, with its codes renamed. -/
def PortResult.rename (g : Config.SrcErr → Config.SrcErr) : PortResult → PortResult
  | .answered r s => .answered (renameAnswer g r) (renameState g s)
  | .waiting s => .waiting (renameState g s)
  | .broken f => .broken f

/-- What a ReadCore came to, with its codes renamed. -/
def CoreResult.rename (g : Config.SrcErr → Config.SrcErr) : CoreResult → CoreResult
  | .done st v e s => .done st v (e.map g) (renameState g s)
  | .waiting s => .waiting (renameState g s)
  | .raised s => .raised (renameState g s)
  | .broken f => .broken f

/-- What a turn came to, with its codes renamed. -/
def LoopTurn.rename (g : Config.SrcErr → Config.SrcErr) : LoopTurn → LoopTurn
  | .more s => .more (renameState g s)
  | .ends res => .ends (res.rename g)

/-- Renaming the codes before `f` is renaming them after it. -/
def CopiesCodes (g : Config.SrcErr → Config.SrcErr) (f : State → Result) : Prop :=
  ∀ s, f (renameState g s) = renameResult g (f s)

/-- A case distinction that looks at no code. -/
theorem ite_copiesCodes {g : Config.SrcErr → Config.SrcErr} {p : State → Prop} [DecidablePred p] {f f' : State → Result}
    (hp : ∀ s, p (renameState g s) ↔ p s) (hf : CopiesCodes g f) (hf' : CopiesCodes g f') :
    CopiesCodes g fun s => if p s then f s else f' s := by
  intro s
  by_cases h : p s
  · simp only [if_pos h, if_pos ((hp s).mpr h), hf s]
  · simp only [if_neg h, if_neg (mt (hp s).mp h), hf' s]

section
variable (g : Config.SrcErr → Config.SrcErr)

/-- A response that is given is appended to the responses, with the code it carries (60_exceptions R143). -/
theorem renameState_respond (r : Response) (s : State) :
    renameState g (respond r s) = respond (renameResponse g r) (renameState g s) := by
  simp [renameState, respond, endCommand, renameResponse]

/-- A response without a code is given to both. -/
theorem respond_copiesCodes {r : Response} (h : renameResponse g r = r) : CopiesCodes g fun s => .next (respond r s) := by
  intro s
  rw [renameResult, renameState_respond, h]

/-! ## The source port -/

theorem fits_renameAnswer (k : Nat) (r : SrcResponse) : (renameAnswer g r).fits k = r.fits k := by
  cases r <;> rfl

/-- The reference source answers with no code (20_memory R57). -/
theorem renameAnswer_referenceAnswer (k : Nat) (held : List Byte) :
    renameAnswer g (referenceAnswer k held).1 = (referenceAnswer k held).1 := by
  unfold referenceAnswer
  split
  · rfl
  · split <;> rfl

/-- The answer decides by its kind, and a code in it is handed on (41_read R93 to R95). -/
theorem onAnswer_rename (r : SrcResponse) (s : State) :
    onAnswer (renameAnswer g r) (renameState g s) = (onAnswer r s).rename g := by
  cases r <;> rfl

theorem sourceReadExact_rename (k : Nat) (s : State) :
    sourceReadExact k (renameState g s) = (sourceReadExact k s).rename g := by
  have hsrc : (renameState g s).source = s.source := rfl
  have henv : (renameState g s).env = s.env.map (renameEvent g) := rfl
  simp only [sourceReadExact, hsrc, henv]
  cases s.source with
  | reference held => rw [PortResult.rename, renameAnswer_referenceAnswer]; rfl
  | external =>
    rcases s.env with _ | ⟨e, rest⟩
    · rfl
    · cases e with
      | answer r =>
        simp only [List.map_cons, renameEvent, fits_renameAnswer]
        by_cases hf : r.fits k = true <;> simp only [hf, if_true] <;> rfl
      | _ => rfl

/-! ## ReadCore -/

theorem readTurn_rename (s : State) : readTurn (renameState g s) = (readTurn s).rename g := by
  have hwork : (renameState g s).work = s.work := rfl
  have hrcnt : (renameState g s).rcnt = s.rcnt := rfl
  simp only [readTurn, hwork, hrcnt, sourceReadExact_rename]
  by_cases h0 : s.work.rem = 0
  · simp only [if_pos h0]; rfl
  by_cases hr : s.rcnt = 0
  · simp only [if_neg h0, if_pos hr]
    cases sourceReadExact (refillSize s.work.rem.toNat) s with
    | answered r u =>
      simp only [PortResult.rename, onAnswer_rename]
      cases onAnswer r u <;> rfl
    | waiting u => rfl
    | broken f => rfl
  · simp only [if_neg h0, if_neg hr]; rfl

/-- The loop, turn by turn. -/
theorem readLoop_rename (fuel : Nat) (s : State) : readLoop fuel (renameState g s) = (readLoop fuel s).rename g := by
  induction fuel generalizing s with
  | zero => rfl
  | succ fuel ih =>
    rw [readLoop, readLoop, readTurn_rename]
    cases readTurn s with
    | more u => exact ih u
    | ends res => rfl

theorem readCore_rename (w : CmdWord) (n : Width) (s : State) :
    readCore w n (renameState g s) = (readCore w n s).rename g := by
  rw [readCore, readCore]
  split
  · rfl
  · exact readLoop_rename g _ (enterCore n s)

theorem resumeCore_rename (r : SrcResponse) (s : State) :
    resumeCore (renameAnswer g r) (renameState g s) = (resumeCore r s).rename g := by
  rw [resumeCore, resumeCore, onAnswer_rename]
  cases onAnswer r s with
  | refilled u => exact readLoop_rename g _ u
  | failed st e => rfl

/-! ## Commands -/

theorem finishRead_rename (res : CoreResult) : finishRead (res.rename g) = renameResult g (finishRead res) := by
  cases res with
  | done st v e s => exact congrArg Host.Outcome.next (renameState_respond g (valueResponse st v e) s).symm
  | waiting s => rfl
  | raised s => rfl
  | broken f => rfl

/-- A batch after its element's ReadCore: a failed element's code is the batch's (42_read_fields R124). -/
theorem afterElement_rename {goOn : State → Result} (hgo : CopiesCodes g goOn) (res : CoreResult) :
    afterElement (res.rename g) goOn = renameResult g (afterElement res goOn) := by
  cases res with
  | done st v e s =>
    by_cases hst : st = .ok
    · subst hst
      exact hgo (recordField v s)
    · rw [CoreResult.rename, afterElement_failed hst, afterElement_failed hst, renameResult, renameState_respond]
      rfl
  | waiting s => rfl
  | raised s => rfl
  | broken f => rfl

/-- The elements still to come, by induction. -/
theorem fieldsLoop_copiesCodes (es : List CmdWord) : CopiesCodes g (fieldsLoop es) := by
  induction es with
  | nil => exact fun s => respond_copiesCodes g (r := listResponse .ok s.work.results none) rfl s
  | cons w es ih =>
    intro s
    cases hd : decodeElement w with
    | none => rw [fieldsLoop_illegal hd, fieldsLoop_illegal hd]; rfl
    | some n =>
      rw [fieldsLoop_cons hd, fieldsLoop_cons hd, ← afterElement_rename g ih, ← readCore_rename]
      rfl

theorem enterNextElement_copiesCodes (es : List CmdWord) : CopiesCodes g (enterNextElement es) := by
  intro s
  have hwork : (renameState g s).work = s.work := rfl
  simp only [enterNextElement, hwork]
  cases es.drop s.work.idx.toNat with
  | nil => exact respond_copiesCodes g (r := listResponse .ok s.work.results none) rfl s
  | cons w rest =>
    cases hd : decodeElement w with
    | none => simp only [hd]; rfl
    | some n =>
      simp only [hd]
      split <;> rfl

theorem finishInit_copiesCodes : CopiesCodes g fun s => .next (finishInit s) := fun s =>
  respond_copiesCodes g (r := valueResponse .ok 0 none) rfl (emptyResidue s)

theorem accept_copiesCodes {run : State → Result} (h : CopiesCodes g run) : CopiesCodes g fun s => accept s run :=
  ite_copiesCodes (p := fun s => s.fault = 1#1) (fun _ => Iff.rfl) (fun _ => rfl)
    (ite_copiesCodes (p := fun s => s.ctrl = .idle) (fun _ => Iff.rfl) h fun _ => rfl)

theorem exec_copiesCodes (i : Instr) : CopiesCodes g (exec i) := by
  cases i with
  | read n =>
    refine accept_copiesCodes g fun s => ?_
    rw [← finishRead_rename, ← readCore_rename]
    rfl
  | fields es =>
    exact accept_copiesCodes g fun s => fieldsLoop_copiesCodes g es (enterBatch es.length (begin (.fields es) s))
  | init => exact accept_copiesCodes g fun s => finishInit_copiesCodes g (begin .init s)

theorem startCommand_copiesCodes (i : Instr) : CopiesCodes g (startCommand i) := by
  intro s
  cases i with
  | read n =>
    simp only [startCommand]
    split <;> rfl
  | fields es => rfl
  | init => rfl

/-- A command in execution goes on after its ReadCore. -/
theorem continueCommand_rename (s : State) (res : CoreResult) :
    continueCommand (renameState g s) (res.rename g) = renameResult g (continueCommand s res) := by
  have hcur : (renameState g s).cur = s.cur := rfl
  have hwork : (renameState g s).work = s.work := rfl
  simp only [continueCommand, hcur, hwork]
  match s.cur with
  | none => rfl
  | some .init => rfl
  | some (.read n) => exact finishRead_rename g res
  | some (.fields es) => exact afterElement_rename g (fieldsLoop_copiesCodes g _) res

theorem runOn_copiesCodes : CopiesCodes g runOn := by
  intro s
  have hloop := readLoop_rename g s.work.rem.toNat s
  match hc : s.cur with
  | none =>
    have hc' : (renameState g s).cur = none := hc
    simp only [runOn, hc, hc']
    rfl
  | some .init =>
    rw [runOn_init hc, runOn_init (s := renameState g s) hc]
    exact finishInit_copiesCodes g s
  | some (.read n) =>
    rw [runOn_read hc, runOn_read (s := renameState g s) hc, ← finishRead_rename, ← hloop]
    rfl
  | some (.fields es) =>
    by_cases hi : s.work.idx = 0
    · rw [runOn_batch_start hc hi, runOn_batch_start (s := renameState g s) hc hi]
      exact fieldsLoop_copiesCodes g es s
    · rw [runOn_element hc hi, runOn_element (s := renameState g s) hc hi,
        ← afterElement_rename g (fieldsLoop_copiesCodes g _), ← hloop]
      rfl

/-- A command's turn, if the end of its ReadCore copies codes. -/
theorem endTurn_rename {finish : CoreResult → Result} (turn : LoopTurn)
    (hfin : ∀ res : CoreResult, finish (res.rename g) = renameResult g (finish res)) :
    endTurn finish (turn.rename g) = renameResult g (endTurn finish turn) := by
  cases turn with
  | more u => rfl
  | ends res => exact hfin res

theorem commandTurn_copiesCodes : CopiesCodes g commandTurn := by
  intro s
  match hc : s.cur with
  | none =>
    have hc' : (renameState g s).cur = none := hc
    simp only [commandTurn, hc, hc']
    rfl
  | some .init =>
    rw [commandTurn_of_init hc, commandTurn_of_init (s := renameState g s) hc]
    exact finishInit_copiesCodes g s
  | some (.read n) =>
    rw [commandTurn_of_read hc, commandTurn_of_read (s := renameState g s) hc, readTurn_rename]
    exact endTurn_rename g _ (finishRead_rename g)
  | some (.fields es) =>
    by_cases hi : s.work.idx = 0
    · rw [commandTurn_of_batch_start hc hi, commandTurn_of_batch_start (s := renameState g s) hc hi]
      exact enterNextElement_copiesCodes g es s
    · rw [commandTurn_of_element hc hi, commandTurn_of_element (s := renameState g s) hc hi, readTurn_rename]
      exact endTurn_rename g _ (afterElement_rename g (enterNextElement_copiesCodes g es))

/-! ## Answers and the step -/

/-- An answer, if what the core does with it, once it has taken it, copies codes: `act` with the answer, `act'` with the
answer's code renamed. -/
theorem answerRequest_rename (r : SrcResponse) (s : State) {act act' : State → Result}
    (h : act' (renameState g (takeAnswer s)) = renameResult g (act (takeAnswer s))) :
    answerRequest (renameAnswer g r) (renameState g s) act' = renameResult g (answerRequest r s act) := by
  have hreq : (renameState g s).request = s.request := rfl
  have hwait : ((renameState g s).fault = 0 ∧ (renameState g s).ctrl = .waitSrc) = (s.fault = 0 ∧ s.ctrl = .waitSrc) := rfl
  simp only [answerRequest, hreq, hwait]
  cases s.request with
  | none => rfl
  | some k =>
    simp only [fits_renameAnswer]
    split
    · split
      · exact h
      · rfl
    · rfl

theorem deliverAnswer_rename (r : SrcResponse) (s : State) :
    deliverAnswer (renameAnswer g r) (renameState g s) = renameResult g (deliverAnswer r s) := by
  refine answerRequest_rename g r s ?_
  rw [resumeCore_rename]
  exact continueCommand_rename g s _

theorem deliverAnswerHeld_rename (r : SrcResponse) (s : State) :
    deliverAnswerHeld (renameAnswer g r) (renameState g s) = renameResult g (deliverAnswerHeld r s) := by
  refine answerRequest_rename g r s ?_
  rw [onAnswer_rename]
  cases onAnswer r (takeAnswer s) with
  | refilled u => rfl
  | failed st e => exact continueCommand_rename g s (.done st 0 e (takeAnswer s))

theorem rejectTransaction_copiesCodes (e : DecodeError) : CopiesCodes g (rejectTransaction e) := by
  intro s
  rcases rejectTransaction_cases e s with ⟨w, hw, he⟩ | ⟨rfl, he⟩ <;> rw [he]
  · simp only [rejectTransaction, hw]
    exact accept_copiesCodes g (run := fun s => .next (raiseFatal .illegalCommand w s)) (fun _ => rfl) s
  · exact accept_copiesCodes g (run := fun _ => .refused .incompleteTransaction) (fun _ => rfl) s

/-- Every move of the environment. -/
theorem receive_rename (e : EnvEvent) (s : State) :
    (receive (renameEvent g e) (renameState g s)).outcome = renameResult g (receive e s).outcome := by
  cases e with
  | command ws =>
    simp only [renameEvent, receive, offer]
    cases decode ws with
    | instr i => exact exec_copiesCodes g i s
    | rejected er => exact rejectTransaction_copiesCodes g er s
  | commandHeld ws =>
    simp only [renameEvent, receive, offerHeld]
    cases decode ws with
    | instr i => exact accept_copiesCodes g (startCommand_copiesCodes g i) s
    | rejected er => exact rejectTransaction_copiesCodes g er s
  | answer r => exact deliverAnswer_rename g r s
  | answerHeld r => exact deliverAnswerHeld_rename g r s
  | turn =>
    exact ite_copiesCodes (p := fun s => running s = true) (fun _ => Iff.rfl) (commandTurn_copiesCodes g) (fun _ => rfl) s
  | abandonedAnswer r => rfl
  | reset => rfl
  | readStatus => rfl
  | bind src =>
    exact ite_copiesCodes (p := fun s => s.ctrl = .idle) (f := fun s => .next { s with source := src })
      (f' := fun _ => .refused .bindWhileBusy) (fun _ => Iff.rfl) (fun _ => rfl) (fun _ => rfl) s
  | foreignConsume => rfl

/-- What may come at any time is told by the kind of a move. -/
theorem atAnyTime_renameEvent (e : EnvEvent) : atAnyTime (renameEvent g e) = atAnyTime e := by
  cases e <;> rfl

theorem step_copiesCodes : CopiesCodes g step := by
  intro s
  cases he : s.env with
  | nil =>
    have he' : (renameState g s).env = [] := by simp [renameState, he]
    rw [step_of_env_nil he, step_of_env_nil he']
    exact ite_copiesCodes (p := fun s => running s = true) (fun _ => Iff.rfl) (runOn_copiesCodes g) (fun _ => rfl) s
  | cons e rest =>
    have he' : (renameState g s).env = renameEvent g e :: rest.map (renameEvent g) := by simp [renameState, he]
    rw [step_of_env_cons he, step_of_env_cons he', atAnyTime_renameEvent]
    have hrun : running (renameState g s) = running s := rfl
    rw [hrun]
    split
    · exact runOn_copiesCodes g s
    · exact receive_rename g e { s with env := rest }
end

/-- Settles O59: the next move is the renamed one, and every part of a step that it leads to copies codes. -/
theorem sourceErrorCodesAreOnlyCopied : Obligations.SourceErrorCodesAreOnlyCopied := step_copiesCodes

end Sys2Proof.Machine
end

section
/-! A bound reference source answers every request at once, so every command on it ends, and so does every list of commands
(20_memory R53, R57, 70_reset_and_hazards R178, R179). -/
namespace Sys2Proof.Machine
open Safety

/-! ## One command -/

/-- What a part of a command that neither ends nor faults keeps on a reference source. -/
structure ReferenceFrame (s t : State) : Prop where
  fault : t.fault = s.fault
  resp : t.responses = s.responses
  env : t.env = s.env
  source : ∃ held, t.source = .reference held

/-- What a command on a reference source ends with: one more response, or a fatal fault and none (20_memory R53,
60_exceptions R146). -/
structure EndsOnReference (s t : State) : Prop where
  ctrl : t.ctrl = .idle
  cur : t.cur = none
  env : t.env = s.env
  source : ∃ held, t.source = .reference held
  ends : (t.fault = s.fault ∧ ∃ r, t.responses = s.responses ++ [r]) ∨ (t.fault = 1 ∧ t.responses = s.responses)

theorem endsOnReference_respond {s : State} (hs : ∃ held, s.source = .reference held) (r : Response) :
    EndsOnReference s (respond r s) :=
  ⟨rfl, rfl, rfl, hs, .inl ⟨rfl, r, rfl⟩⟩

theorem endsOnReference_raiseFatal {s : State} (hs : ∃ held, s.source = .reference held) (c : FatalCause) (w : CmdWord) :
    EndsOnReference s (raiseFatal c w s) :=
  ⟨rfl, rfl, rfl, hs, .inr ⟨rfl, rfl⟩⟩

theorem ReferenceFrame.followedBy {s u t : State} (h : ReferenceFrame s u) (h' : EndsOnReference u t) :
    EndsOnReference s t where
  ctrl := h'.ctrl
  cur := h'.cur
  env := h'.env.trans h.env
  source := h'.source
  ends := by
    have hends := h'.ends
    rwa [h.fault, h.resp] at hends

/-- A ReadCore on a reference source returns, or raises ContractViolation; it never waits (20_memory R57, 41_read R90). -/
theorem readCore_on_reference {s : State} (hs : ∃ held, s.source = .reference held) (w : CmdWord) (n : Width) :
    (∃ st v e t, readCore w n s = .done st v e t ∧ ReferenceFrame s t) ∨
    readCore w n s = .raised (raiseFatal .contractViolation w s) := by
  obtain ⟨held, hheld⟩ := hs
  rw [readCore_shape]
  split
  · exact .inr rfl
  · split
    · exact .inl ⟨_, _, _, _, rfl, rfl, rfl, rfl, held, hheld⟩
    · rw [coreRequest_reference (s := takeChunk (enterCore n s)) _ hheld]
      rcases coreAnswer_cases (referenceAnswer _ held).1 (takeAnswer { issueRequest _ (takeChunk (enterCore n s)) with
        source := .reference (referenceAnswer _ held).2 }) with ⟨_, _, h⟩ | ⟨_, _, _, h, _⟩ <;>
        exact .inl ⟨_, _, _, _, h, rfl, rfl, rfl, _, rfl⟩

/-- The elements still to come, by induction: each returns OK and the batch goes on, or the batch is over. -/
theorem fieldsLoop_on_reference (es : List CmdWord) :
    ∀ s : State, (∃ held, s.source = .reference held) → ∃ t, fieldsLoop es s = .next t ∧ EndsOnReference s t := by
  induction es with
  | nil => exact fun s hs => ⟨_, rfl, endsOnReference_respond hs _⟩
  | cons w es ih =>
    intro s hs
    have hnext : ReferenceFrame s (nextElement s) := ⟨rfl, rfl, rfl, hs⟩
    cases hd : decodeElement w with
    | none =>
      rw [fieldsLoop_illegal hd]
      exact ⟨_, rfl, hnext.followedBy (endsOnReference_raiseFatal hnext.source _ _)⟩
    | some n =>
      rw [fieldsLoop_cons hd]
      rcases readCore_on_reference (s := nextElement s) hs w n with ⟨st, v, e, u, h, hu⟩ | h <;> rw [h]
      · by_cases hst : st = .ok
        · subst hst
          obtain ⟨t, ht, hends⟩ := ih (recordField v u) hu.source
          have hrec : ReferenceFrame s (recordField v u) := ⟨hu.fault, hu.resp, hu.env, hu.source⟩
          exact ⟨t, ht, hrec.followedBy hends⟩
        · rw [afterElement_failed hst]
          exact ⟨_, rfl, hnext.followedBy (hu.followedBy (endsOnReference_respond hu.source _))⟩
      · exact ⟨_, rfl, hnext.followedBy (endsOnReference_raiseFatal hnext.source _ _)⟩

theorem exec_on_reference {s : State} (hr : ready s) (hs : ∃ held, s.source = .reference held) (i : Instr) :
    ∃ t, exec i s = .next t ∧ EndsOnReference s t := by
  have hbegin : ReferenceFrame s (begin i s) := ⟨rfl, rfl, rfl, hs⟩
  cases i with
  | read n =>
    rw [exec_read_ready hr]
    rcases readCore_on_reference (s := begin (.read n) s) hs (encodeWidth n) n with ⟨st, v, e, u, h, hu⟩ | h <;> rw [h]
    · exact ⟨_, rfl, hbegin.followedBy (hu.followedBy (endsOnReference_respond hu.source _))⟩
    · exact ⟨_, rfl, hbegin.followedBy (endsOnReference_raiseFatal hbegin.source _ _)⟩
  | fields es =>
    rw [exec_fields_ready hr]
    obtain ⟨t, ht, hends⟩ := fieldsLoop_on_reference es (enterBatch es.length (begin (.fields es) s)) hs
    have henter : ReferenceFrame s (enterBatch es.length (begin (.fields es) s)) := ⟨rfl, rfl, rfl, hs⟩
    exact ⟨t, ht, henter.followedBy hends⟩
  | init =>
    rw [exec_init_ready hr]
    exact ⟨_, rfl, rfl, rfl, rfl, hs, .inl ⟨rfl, _, rfl⟩⟩

/-- Settles O45: no ReadCore of the command waits, so READ and FIELDS end as INIT does. -/
theorem commandsEndOnAReferenceSource : Obligations.CommandsEndOnAReferenceSource := by
  intro i s held hr hs
  obtain ⟨t, ht, hends⟩ := exec_on_reference hr ⟨held, hs⟩ i
  have hresp := hends.ends
  rw [hr.1] at hresp
  exact ⟨t, ht, hends.ctrl, hends.env, hresp⟩

/-! ## A list of commands -/

theorem runSteps_succ_of_step {s t : State} (h : step s = .next t) (k : Nat) : runSteps (k + 1) s = runSteps k t := by
  rw [runSteps, h]

/-- A whole transaction on a reference source: its command runs to its end, or the word is illegal (20_memory R52,
30_encoding R67, R69). -/
theorem step_command_on_reference {s : State} {ws : List CmdWord} {rest : List EnvEvent} (hr : ready s)
    (hs : ∃ held, s.source = .reference held) (henv : s.env = .command ws :: rest)
    (hwhole : decode ws ≠ .rejected .wrongLength) : ∃ t, step s = .next t ∧ EndsOnReference { s with env := rest } t := by
  obtain ⟨hrun, hdone⟩ := step_of_move (.inl (running_of_ready hr)) henv
  have hr' : ready { s with env := rest } := hr
  rcases offer_cases ws { s with env := rest } with ⟨i, _, h⟩ | ⟨_, w, _, _, h⟩ | ⟨hw, _⟩
  · rw [hrun _ _ h]
    exact exec_on_reference hr' hs i
  · rw [hdone _ h, accept_ready hr']
    exact ⟨_, rfl, endsOnReference_raiseFatal (s := { s with env := rest }) hs _ _⟩
  · exact absurd hw hwhole

/-- A faulted core stays faulted through the transactions to come. -/
theorem runSteps_faulted (wss : List (List CmdWord)) :
    ∀ s : State, s.fault = 1 → s.env = wss.map .command → ∃ t, runSteps wss.length s = .next t ∧ t.fault = 1 := by
  induction wss with
  | nil => exact fun s hf _ => ⟨s, rfl, hf⟩
  | cons ws wss ih =>
    intro s hf henv
    rw [List.length_cons, runSteps_succ_of_step (step_transaction_faulted hf (.inl henv))]
    exact ih { s with env := wss.map .command } hf rfl

/-- Whole transactions on a reference source, by induction: every one gives one response, up to a fatal fault. -/
theorem runSteps_on_reference (wss : List (List CmdWord)) :
    ∀ s : State, ready s → (∃ held, s.source = .reference held) → s.env = wss.map .command →
      (∀ ws ∈ wss, decode ws ≠ .rejected .wrongLength) →
      ∃ t, runSteps wss.length s = .next t ∧
        (t.fault = 1 ∨ (ready t ∧ t.env = [] ∧ t.responses.length = s.responses.length + wss.length)) := by
  induction wss with
  | nil => exact fun s hr _ henv _ => ⟨s, rfl, .inr ⟨hr, henv, rfl⟩⟩
  | cons ws wss ih =>
    intro s hr hs henv hwhole
    obtain ⟨u, hu, hends⟩ := step_command_on_reference hr hs henv (hwhole ws List.mem_cons_self)
    rw [List.length_cons, runSteps_succ_of_step hu]
    rcases hends.ends with ⟨hf, r, hresp⟩ | ⟨hf, _⟩
    · obtain ⟨t, ht, hfault | ⟨hrt, henvt, hlen⟩⟩ := ih u ⟨hf.trans hr.1, hends.ctrl⟩ hends.source hends.env
        fun ws' hmem => hwhole ws' (List.mem_cons_of_mem _ hmem)
      · exact ⟨t, ht, .inl hfault⟩
      · refine ⟨t, ht, .inr ⟨hrt, henvt, ?_⟩⟩
        have hone : u.responses.length = s.responses.length + 1 := by rw [hresp]; exact List.length_append
        rw [hlen, hone]
        omega
    · obtain ⟨t, ht, hft⟩ := runSteps_faulted wss u hf hends.env
      exact ⟨t, ht, .inl hft⟩

/-- With no command in execution, the unanswered commands of a host's list are its transactions. -/
theorem unanswered_of_commands {s : State} {wss : List (List CmdWord)} (hc : s.cur = none)
    (henv : s.env = wss.map .command) : unanswered s = wss.length := by
  have hall : ∀ e ∈ wss.map EnvEvent.command, isCommand e = true := by
    intro e he
    obtain ⟨ws, _, rfl⟩ := List.mem_map.mp he
    rfl
  rw [unanswered, hc, henv, List.countP_eq_length.mpr hall]
  simp

/-- Settles O54: a run over the list either faults, or comes to an idle core with no move left and a response for each
transaction, which is what `runEnd` counts. -/
theorem commandListsRunToAnEnd : Obligations.CommandListsRunToAnEnd := by
  intro s held wss hr hc hs henv hwhole
  obtain ⟨t, ht, hend⟩ := runSteps_on_reference wss s hr ⟨held, hs⟩ henv hwhole
  refine ⟨t, ht, ?_⟩
  rcases hend with hf | ⟨⟨hf, hctrl⟩, henvt, hlen⟩
  · exact .inr (by simp [runEnd, hf])
  · have hcount := unanswered_of_commands hc henv
    exact .inl ⟨by simp [runEnd, hf, hctrl, henvt, hcount, hlen], hlen⟩

end Sys2Proof.Machine
end

section
/-! The requests that a command issues, and a READ that waits for its one request (20_memory R41, R43, 41_read R91, R92,
R103). -/
namespace Sys2Proof.Machine
open Safety

/-- From `s` to `t` at most `m` requests were issued, of 1 to 8 bytes each (20_memory R43). -/
def IssuesAtMost (m : Nat) (s t : State) : Prop :=
  ∃ ks, t.requests = s.requests ++ ks ∧ (∀ k ∈ ks, 1 ≤ k ∧ k ≤ 8) ∧ ks.length ≤ m

theorem issuesAtMost_of_requests_eq {s t : State} (h : t.requests = s.requests) (m : Nat) : IssuesAtMost m s t :=
  ⟨[], by rw [h, List.append_nil], List.forall_mem_nil _, Nat.zero_le m⟩

theorem IssuesAtMost.followedBy {s u t : State} {m m' : Nat} (h : IssuesAtMost m s u) (h' : IssuesAtMost m' u t) :
    IssuesAtMost (m' + m) s t := by
  obtain ⟨ks, hks, hsize, hlen⟩ := h
  obtain ⟨ks', hks', hsize', hlen'⟩ := h'
  refine ⟨ks ++ ks', by rw [hks', hks, List.append_assoc], List.forall_mem_append.mpr ⟨hsize, hsize'⟩, ?_⟩
  rw [List.length_append]
  omega

theorem IssuesAtMost.mono {s t : State} {m m' : Nat} (h : IssuesAtMost m s t) (hle : m ≤ m') : IssuesAtMost m' s t := by
  obtain ⟨ks, hks, hsize, hlen⟩ := h
  exact ⟨ks, hks, hsize, hlen.trans hle⟩

theorem CoreEffect.issuesAtMost {s t : State} (h : CoreEffect s t) : IssuesAtMost 1 s t := by
  obtain ⟨ks, hks, hlen, hsize⟩ := h.req
  exact ⟨ks, hks, hsize, hlen⟩

/-- A ReadCore issues at most one request, whatever it comes to (41_read R103). -/
theorem finishRead_issuesAtMost {w : CmdWord} {n : Width} {s t : State} (h : finishRead (readCore w n s) = .next t) :
    IssuesAtMost 1 s t := by
  rcases readCore_cases w n s with
    ⟨_, e⟩ | ⟨_, _, u, e, hu, _⟩ | ⟨_, _, _, u, _, e, hu, _⟩ | ⟨_, _, u, _, e, hu, _⟩ | ⟨_, e, _⟩ <;> rw [e] at h <;> cases h
  · exact issuesAtMost_of_requests_eq rfl 1
  · exact hu.issuesAtMost
  · exact hu.issuesAtMost
  · exact hu.issuesAtMost

/-- The elements still to come, by induction: at most one request for each that is reached (42_read_fields R121). -/
theorem fieldsLoop_issuesAtMost (es : List CmdWord) :
    ∀ s t : State, fieldsLoop es s = .next t → IssuesAtMost es.length s t := by
  induction es with
  | nil => rintro s t ⟨⟩; exact issuesAtMost_of_requests_eq rfl 0
  | cons w es ih =>
    intro s t h
    cases hd : decodeElement w with
    | none => rw [fieldsLoop_illegal hd] at h; cases h; exact issuesAtMost_of_requests_eq rfl _
    | some n =>
      rw [fieldsLoop_cons hd] at h
      have hpos : 1 ≤ (w :: es).length := by simp
      rcases readCore_cases w n (nextElement s) with
        ⟨_, e⟩ | ⟨_, v, u, e, hu, _⟩ | ⟨_, st, er, u, hst, e, hu, _⟩ | ⟨_, _, u, _, e, hu, _⟩ | ⟨_, e, _⟩ <;> rw [e] at h
      · cases h; exact issuesAtMost_of_requests_eq rfl _
      · exact (show IssuesAtMost 1 s (recordField v u) from hu.issuesAtMost).followedBy (ih (recordField v u) t h)
      · rw [afterElement_failed hst] at h; cases h; exact IssuesAtMost.mono hu.issuesAtMost hpos
      · cases h; exact IssuesAtMost.mono hu.issuesAtMost hpos
      · cases h

/-- Settles O46: a READ is one ReadCore, a FIELDS at most one for each element, an INIT none. -/
theorem commandsIssueFewSmallRequests : Obligations.CommandsIssueFewSmallRequests := by
  intro i s t hr h
  cases i with
  | read n => rw [exec_read_ready hr] at h; exact finishRead_issuesAtMost (s := begin (.read n) s) h
  | fields es => rw [exec_fields_ready hr] at h; exact fieldsLoop_issuesAtMost es (enterBatch es.length (begin (.fields es) s)) t h
  | init => rw [exec_init_ready hr] at h; cases h; exact issuesAtMost_of_requests_eq rfl 0

/-- A ReadCore that needs a refill whose answer is not the next move waits with its request outstanding (20_memory R41,
41_read R91, R92). -/
theorem readCore_waits {n : Width} {s : State} (w : CmdWord) (h64 : n.toNat ≤ 64) (hlt : s.rcnt.toNat < n.toNat)
    (hs : s.source = .external) (hne : ∀ r rest, s.env ≠ .answer r :: rest) :
    readCore w n s = .waiting (issueRequest (refillSize (n.toNat - s.rcnt.toNat)) (takeChunk (enterCore n s))) := by
  rw [readCore_shape, if_neg (by omega), if_neg (by omega), coreRequest]
  rcases sourceReadExact_cases (refillSize (n.toNat - s.rcnt.toNat)) (takeChunk (enterCore n s)) with
    ⟨r, _, _, _, ⟨rest, _, he, _⟩ | ⟨held, hs', _⟩⟩ | ⟨e, _⟩ | ⟨_, _, r, rest, he, _⟩
  · exact absurd he (hne r rest)
  · exact absurd (hs.symm.trans hs') (by simp)
  · rw [e]
  · exact absurd he (hne r rest)

/-- Settles O29: the READ's ReadCore drains the residue and waits. -/
theorem readWaitsForTheSource : Obligations.ReadWaitsForTheSource := by
  intro s n hr h64 hlt hs hne
  rw [exec_read_ready hr, readCore_waits (s := begin (.read n) s) _ h64 hlt hs hne]
  refine ⟨_, rfl, rfl, rfl, rfl, rfl, ?_, rfl, rfl, ?_, hs, rfl, ⟨rfl, rfl, rfl⟩, rfl⟩
  · exact drained_rcnt n (begin (.read n) s) hlt
  · exact drained_rem n (begin (.read n) s)

end Sys2Proof.Machine
end

section
/-! FIELDS on any source waits where its READs would: a batch that stands where the host's READs stand does for each element
what the READ does (20_memory R41, 42_read_fields R121, R125, R127). -/
namespace Sys2Proof.Machine
open Safety

/-! ## A ReadCore reads and writes the stream only -/

/-- The executing state `c` with CTRL, the stream side and N, REM, VAL of `s`: all that a ReadCore can read or write. -/
def carry (c s : State) : State :=
  { c with
    acc := s.acc, rcnt := s.rcnt, ctrl := s.ctrl, request := s.request, source := s.source, env := s.env,
    requests := s.requests, work := { c.work with n := s.work.n, rem := s.work.rem, val := s.work.val } }

/-- What a ReadCore without a fatal fault came to, on the executing state `c`. -/
def CoreResult.carry (c : State) : CoreResult → CoreResult
  | .done st v e s => .done st v e (Machine.carry c s)
  | .waiting s => .waiting (Machine.carry c s)
  | .raised s => .raised s
  | .broken f => .broken f

/-- What a request came to, on the executing state `c`. -/
def PortResult.carry (c : State) : PortResult → PortResult
  | .answered r s => .answered r (Machine.carry c s)
  | .waiting s => .waiting (Machine.carry c s)
  | .broken f => .broken f

/-- The source port is all on the stream side (20_memory R41). -/
theorem sourceReadExact_carry (c : State) (k : Nat) (s : State) :
    sourceReadExact k (carry c s) = (sourceReadExact k s).carry c := by
  have hsrc : (carry c s).source = s.source := rfl
  have henv : (carry c s).env = s.env := rfl
  simp only [sourceReadExact, hsrc, henv]
  cases s.source with
  | reference held => rfl
  | external =>
    rcases s.env with _ | ⟨e, rest⟩
    · rfl
    · cases e with
      | answer r => by_cases hf : r.fits k = true <;> simp only [hf, if_true] <;> rfl
      | _ => rfl

theorem coreRequest_carry (c : State) (k : Nat) (s : State) :
    coreRequest k (carry c s) = (coreRequest k s).carry c := by
  rw [coreRequest, coreRequest, sourceReadExact_carry]
  cases sourceReadExact k s with
  | answered r u => cases r <;> rfl
  | waiting u => rfl
  | broken f => rfl

/-- The executing state `c` and the state `s` agree on what a ReadCore reads when it is entered. -/
def SameEntry (s c : State) : Prop :=
  c.ctrl = s.ctrl ∧ c.request = s.request ∧ sameStream s c

theorem enterCore_of_sameEntry {s c : State} (h : SameEntry s c) (n : Width) :
    enterCore n c = carry c (enterCore n s) := by
  obtain ⟨hctrl, hreq, hacc, hrcnt, hreqs, hsrc, henv⟩ := h
  simp only [enterCore, carry, ← hctrl, ← hreq, ← hacc, ← hrcnt, ← hreqs, ← hsrc, ← henv]

/-- A ReadCore of a legal width does the same from states that agree on what it reads (41_read R90 to R108). -/
theorem readCore_of_sameEntry {s c : State} (h : SameEntry s c) {n : Width} (h64 : n.toNat ≤ 64) (w w' : CmdWord) :
    readCore w n c = (readCore w' n s).carry c := by
  have hrcnt : c.rcnt = s.rcnt := by obtain ⟨_, _, _, hrcnt, _⟩ := h; exact hrcnt
  have hlegal : ¬ 64 < n.toNat := Nat.not_lt.mpr h64
  rw [readCore_shape, readCore_shape, if_neg hlegal, if_neg hlegal, hrcnt, enterCore_of_sameEntry h n]
  split
  · rfl
  · exact coreRequest_carry c _ (takeChunk (enterCore n s))

/-! ## READs that respond OK -/

/-- Each command gives one response or none (20_memory R53). -/
theorem runCommands_responses {is : List Instr} :
    ∀ {s u : State}, runCommands is s = .next u → ∃ rs, u.responses = s.responses ++ rs ∧ rs.length ≤ is.length := by
  induction is with
  | nil => rintro s u ⟨⟩; exact ⟨[], by simp, Nat.le_refl 0⟩
  | cons i is ih =>
    intro s u h
    cases he : exec i s with
    | next t =>
      simp only [runCommands, he] at h
      obtain ⟨rs, hrs, hlen⟩ := ih h
      have hone : ∃ r1, t.responses = s.responses ++ r1 ∧ r1.length ≤ 1 := by
        rcases (exec_frame he).ends with ⟨_, hr | ⟨r, hr⟩⟩ | ⟨_, _, _, hr⟩
        · exact ⟨[], by simp [hr], by simp⟩
        · exact ⟨[r], hr, by simp⟩
        · exact ⟨[], by simp [hr], by simp⟩
      obtain ⟨r1, hr1, hlen1⟩ := hone
      refine ⟨r1 ++ rs, by rw [hrs, hr1, List.append_assoc], ?_⟩
      rw [List.length_append, List.length_cons]
      omega
    | fault f => simp only [runCommands, he] at h; cases h
    | refused r => simp only [runCommands, he] at h; cases h

/-- If as many READs as there are respond OK, the first one does, and so do the rest after it. -/
theorem first_read_responded_ok {n : Width} {ns : List Width} {s u : State} {vs : List Word64}
    (h : runCommands ((n :: ns).map .read) s = .next u) (hok : respondedOk s u vs) (hlen : vs.length = (n :: ns).length) :
    ∃ t v vs', exec (.read n) s = .next t ∧ runCommands (ns.map .read) t = .next u ∧ vs = v :: vs' ∧
      t.responses = s.responses ++ [valueResponse .ok v none] ∧ respondedOk t u vs' ∧ vs'.length = ns.length := by
  cases he : exec (.read n) s with
  | fault f => simp only [List.map_cons, runCommands, he] at h; cases h
  | refused r => simp only [List.map_cons, runCommands, he] at h; cases h
  | next t =>
    simp only [List.map_cons, runCommands, he] at h
    obtain ⟨rs, hrs, hle⟩ := runCommands_responses h
    rw [List.length_map] at hle
    obtain ⟨v, vs', rfl⟩ := List.exists_cons_of_length_eq_add_one hlen
    have hlen' : vs'.length = ns.length := by simpa using hlen
    rw [respondedOk, hrs] at hok
    have hsilent : t.responses ≠ s.responses := by
      intro hsame
      rw [hsame] at hok
      have := congrArg List.length (List.append_cancel_left hok)
      simp at this
      omega
    obtain ⟨r, hr⟩ : ∃ r, t.responses = s.responses ++ [r] := by
      rcases (exec_frame he).ends with ⟨_, hr | hr⟩ | ⟨_, _, _, hr⟩
      · exact absurd hr hsilent
      · exact hr
      · exact absurd hr hsilent
    rw [hr, List.append_assoc, List.map_cons] at hok
    obtain ⟨rfl, rfl⟩ := List.cons.inj (List.append_cancel_left hok)
    exact ⟨t, v, vs', rfl, h, rfl, hr, hrs, hlen'⟩

/-- A READ that responded OK had a ReadCore of a legal width that returned OK (41_read R110). -/
theorem readCore_of_responded_ok {n : Width} {s t : State} {v : Word64} (hr : ready s) (h : exec (.read n) s = .next t)
    (hresp : t.responses = s.responses ++ [valueResponse .ok v none]) :
    n.toNat ≤ 64 ∧ ∃ u, readCore (encodeWidth n) n (begin (.read n) s) = .done .ok v none u ∧
      t = respond (valueResponse .ok v none) u ∧ u.fault = 0 ∧ u.ctrl = .busy ∧ u.work.n = n := by
  rw [exec_read_ready hr] at h
  have hsilent : ∀ {u : State}, u.responses = s.responses → u.responses ≠ s.responses ++ [valueResponse .ok v none] :=
    fun hu hne => by simp [hu] at hne
  rcases readCore_cases (encodeWidth n) n (begin (.read n) s) with
    ⟨_, e⟩ | ⟨h64, v', u, e, hu, hn, _, _, hc, _⟩ | ⟨_, st, er, u, hst, e, hu, _⟩ | ⟨_, _, u, _, e, hu, _⟩ | ⟨_, e, _⟩ <;>
    rw [e] at h <;> cases h
  · exact absurd hresp (hsilent rfl)
  · have hu' : u.responses = s.responses := hu.resp
    rw [respond_responses, hu'] at hresp
    obtain rfl : v' = v := congrArg Response.value (List.singleton_inj.mp (List.append_cancel_left hresp))
    exact ⟨h64, u, e, rfl, hu.fault.trans hr.1, hc.elim id id, hn⟩
  · have hu' : u.responses = s.responses := hu.resp
    rw [respond_responses, hu'] at hresp
    exact absurd (congrArg Response.status (List.singleton_inj.mp (List.append_cancel_left hresp))) hst
  · exact absurd hresp (hsilent hu.resp)

/-! ## The batch beside its READs -/

/-- The batch `c` stands between two elements where the host's READs stand in `s`, at a command boundary. -/
structure BesideReads (s c : State) : Prop where
  ready : ready s
  busy : c.ctrl = .busy
  request : c.request = s.request
  stream : sameStream s c

/-- The batch came from `c` to `d` by delivering the fields `vs` of the widths `ns` (42_read_fields R125). -/
structure Delivered (ns : List Width) (vs : List Word64) (c d : State) : Prop where
  results : d.work.results = c.work.results ++ vs
  consumed : d.work.consumed = c.work.consumed + (ns.map BitVec.toNat).sum
  idx : d.work.idx = c.work.idx + BitVec.ofNat 14 ns.length
  faults : sameFaults c d
  resp : d.responses = c.responses
  stat : d.statusReads = c.statusReads

theorem delivered_nil (c : State) : Delivered [] [] c c :=
  ⟨by simp, by simp, by simp, ⟨rfl, rfl, rfl⟩, rfl, rfl⟩

theorem Delivered.cons {n : Width} {v : Word64} {ns : List Width} {vs : List Word64} {c u d : State} (hn : u.work.n = n)
    (h : Delivered ns vs (recordField v (carry (nextElement c) u)) d) : Delivered (n :: ns) (v :: vs) c d where
  results := h.results.trans (by simp [carry])
  consumed := h.consumed.trans (by simp [carry, hn, Nat.add_assoc])
  idx := h.idx.trans (by
    rw [List.length_cons, Nat.add_comm ns.length 1, BitVec.ofNat_add, ← BitVec.add_assoc]
    rfl)
  faults := h.faults
  resp := h.resp
  stat := h.stat

/-- An element's ReadCore does what the READ's does (42_read_fields R121). -/
theorem BesideReads.sameEntry {s c : State} (h : BesideReads s c) (i : Instr) : SameEntry (begin i s) (nextElement c) :=
  ⟨h.busy, h.request, h.stream⟩

/-- Beside READs that all respond OK the batch goes through their elements, by induction (42_read_fields R121, R125,
R127). -/
theorem fieldsLoop_beside_reads (ns : List Width) :
    ∀ {s u c : State} {vs : List Word64}, BesideReads s c → runCommands (ns.map .read) s = .next u →
      respondedOk s u vs → vs.length = ns.length →
      ∃ d, BesideReads u d ∧ Delivered ns vs c d ∧
        ∀ rest, fieldsLoop (ns.map encodeWidth ++ rest) c = fieldsLoop rest d := by
  induction ns with
  | nil =>
    rintro s u c vs h ⟨⟩ _ hlen
    obtain rfl := List.eq_nil_of_length_eq_zero hlen
    exact ⟨c, h, delivered_nil c, fun rest => rfl⟩
  | cons n ns ih =>
    intro s u c vs h hrun hok hlen
    obtain ⟨t, v, vs', he, hrun', rfl, hresp, hok', hlen'⟩ := first_read_responded_ok hrun hok hlen
    obtain ⟨h64, x, hcore, rfl, hf, hb, hn⟩ := readCore_of_responded_ok h.ready he hresp
    have hbeside : BesideReads (respond (valueResponse .ok v none) x) (recordField v (carry (nextElement c) x)) :=
      ⟨⟨hf, rfl⟩, hb, rfl, rfl, rfl, rfl, rfl, rfl⟩
    obtain ⟨d, hd, hdel, hloop⟩ := ih hbeside hrun' hok' hlen'
    refine ⟨d, hd, hdel.cons hn, fun rest => ?_⟩
    rw [List.map_cons, List.cons_append, fieldsLoop_cons (decodeElement_encodeWidth n),
      readCore_of_sameEntry (h.sameEntry (.read n)) h64 _ (encodeWidth n), hcore]
    exact hloop rest

/-! ## The element that waits -/

/-- A READ that is left waiting has a ReadCore of a legal width that waits, its N holding the width (41_read R90). -/
theorem readCore_of_waiting {n : Width} {s z : State} (hr : ready s) (h : exec (.read n) s = .next z)
    (hz : z.ctrl = .waitSrc) :
    n.toNat ≤ 64 ∧ readCore (encodeWidth n) n (begin (.read n) s) = .waiting z ∧ z.work.n = n := by
  rw [exec_read_ready hr] at h
  rcases readCore_cases (encodeWidth n) n (begin (.read n) s) with
    ⟨_, e⟩ | ⟨_, _, _, e, _⟩ | ⟨_, _, _, _, _, e, _⟩ | ⟨h64, _, u, rfl, e, _⟩ | ⟨_, e, _⟩ <;> rw [e] at h <;> cases h
  case inr.inr.inr.inl => exact ⟨h64, e, by simp⟩
  all_goals cases hz

/-- IDX can count the elements of a batch that a header can ask for (30_encoding R62, 10_state R29). -/
theorem ofNat_succ_toNat {k : Nat} (h : k < Config.maxCount) : (BitVec.ofNat 14 k + 1).toNat = k + 1 := by
  simp only [Config.maxCount] at h
  rw [BitVec.toNat_add, BitVec.toNat_ofNat]
  simp
  omega

/-- Settles O43: the batch goes beside the READs up to the element that waits, and that element's ReadCore is the READ's. -/
theorem fieldsWaitAsTheirReads : Obligations.FieldsWaitAsTheirReads := by
  intro ns n after s u z vs hwf hr hrun hok hlen he hz
  rw [exec_fields_ready hr]
  have hbeside : BesideReads s (enterBatch (ns.map encodeWidth ++ encodeWidth n :: after).length
      (begin (.fields (ns.map encodeWidth ++ encodeWidth n :: after)) s)) :=
    ⟨hr, rfl, rfl, rfl, rfl, rfl, rfl, rfl⟩
  obtain ⟨d, hd, hdel, hloop⟩ := fieldsLoop_beside_reads ns hbeside hrun hok hlen
  obtain ⟨h64, hwait, hn⟩ := readCore_of_waiting hd.ready he hz
  have hcount : ns.length < Config.maxCount := by
    have hle := of_decide_eq_true hwf
    simp only [List.length_append, List.length_map, List.length_cons] at hle
    omega
  rw [hloop, fieldsLoop_cons (decodeElement_encodeWidth n),
    readCore_of_sameEntry (hd.sameEntry (.read n)) h64 _ (encodeWidth n), hwait]
  refine ⟨carry (nextElement d) z, rfl, hz, rfl, ⟨rfl, rfl, rfl, rfl, rfl⟩, hdel.resp, hdel.faults, hdel.stat, hn, rfl, rfl,
    hdel.results, ?_, ?_⟩
  · exact hdel.consumed.trans (Nat.zero_add _)
  · show (d.work.idx + 1).toNat = _
    rw [hdel.idx, enterBatch_idx, zero_add, ofNat_succ_toNat hcount]

end Sys2Proof.Machine
end

section
/-! Single moves of the host and of the source, and the moves that the spec puts outside the model (20_memory R41, R42, R47,
R52 to R57, 70_reset_and_hazards R179; log entries 9, 11 and 12). -/
namespace Sys2Proof.Machine
open Safety

/-- Settles O7: the transaction is the move that the step receives. -/
theorem stepRunsTheIssuedCommand : Obligations.StepRunsTheIssuedCommand := by
  intro s ws rest i hrun henv hd
  obtain ⟨hexec, _⟩ := step_of_move (.inl hrun) henv
  exact hexec i _ (by rw [receive, offer, hd])

/-- Settles O16: a status read may come at any time, so an executing command does not run on before it. -/
theorem statusReadReturnsTheFaultRegisters : Obligations.StatusReadReturnsTheFaultRegisters := by
  intro s rest henv
  obtain ⟨_, hdone⟩ := step_of_move (.inr rfl) henv
  exact hdone _ rfl

/-- Settles O18: without a move to come only an executing command would go on. -/
theorem unansweredRequestHangs : Obligations.UnansweredRequestHangs := by
  intro s hc henv
  have hrun := running_of_waiting hc
  refine ⟨by simp [step_of_env_nil henv, hrun], fun hf start => ?_⟩
  simp [runEnd, hf, hc, henv]

/-- Settles O19: each of the four moves is received by a core that executes nothing, and is refused there. -/
theorem brokenHostDutiesAreRefused : Obligations.BrokenHostDutiesAreRefused := by
  refine ⟨fun s ws rest hf hc henv => step_transaction_waiting hf hc henv,
    fun s ws rest hr henv hd => step_transaction_incomplete hr henv hd, fun s src rest hc henv => ?_, fun s rest hrun henv => ?_⟩
  · obtain ⟨_, hdone⟩ := step_of_move (.inl (running_of_waiting hc)) henv
    exact hdone _ (by simp [receive, bindSource, hc])
  · obtain ⟨_, hdone⟩ := step_of_move (.inl hrun) henv
    exact hdone _ rfl

/-- An answer, held or not, on a core that executes nothing: it is met as an answer to the outstanding request, whatever the
core would do with it. -/
theorem step_of_answer {s : State} {r : SrcResponse} {rest : List EnvEvent} (hrun : running s = false)
    (henv : s.env = .answer r :: rest ∨ s.env = .answerHeld r :: rest) :
    ∃ act, step s = answerRequest r { s with env := rest } act := by
  rcases henv with henv | henv <;> obtain ⟨_, hdone⟩ := step_of_move (.inl hrun) henv <;> exact ⟨_, hdone _ rfl⟩

/-- Settles O20: an idle core has no request that waits, and a waiting core compares the answer with its request. -/
theorem brokenSourceProtocolIsAFault : Obligations.BrokenSourceProtocolIsAFault := by
  refine ⟨fun s r rest hr henv => ?_, fun s r rest k hf hc hk henv hfit => ?_⟩
  · obtain ⟨act, hstep⟩ := step_of_answer (running_of_ready hr) henv
    rcases answerRequest_cases r { s with env := rest } act with ⟨e, _⟩ | ⟨_, _, hc, _⟩ | ⟨_, _, hc, _⟩
    · exact hstep.trans e
    · exact absurd (hr.2.symm.trans hc) (by simp)
    · exact absurd (hr.2.symm.trans hc) (by simp)
  · obtain ⟨act, hstep⟩ := step_of_answer (running_of_waiting hc) henv
    rw [hstep, answerRequest]
    simp [hf, hc, hk, hfit]

/-- Settles O21: the three cases of the reference source, and `referenceAnswer_fits` for all of them. -/
theorem referenceSourceAnswersEveryRequest : Obligations.ReferenceSourceAnswersEveryRequest := by
  intro k held hk
  refine ⟨fun hle => if_pos hle, ?_, fun hpos hlt => ?_, referenceAnswer_fits k held⟩
  · rintro rfl
    have hnone : ¬ k ≤ ([] : List Byte).length := Nat.not_le.mpr hk
    rw [referenceAnswer, if_neg hnone]
    rfl
  · rw [referenceAnswer, if_neg (Nat.not_le.mpr hlt), if_neg (Nat.pos_iff_ne_zero.mp hpos)]

/-- Settles O52: it is what `step_of_running` says. -/
theorem executingCommandRunsOn : Obligations.ExecutingCommandRunsOn := fun _ hrun hnext => step_of_running hrun hnext

end Sys2Proof.Machine
end

section
/-! Every command responds once or is lost: the responses given and the commands not yet answered, through every part of a
step (20_memory R53, 60_exceptions R146, R148, 70_reset_and_hazards R171, R179; log entry 9). -/
namespace Sys2Proof.Machine
open Safety

/-! ## The account of a state and of an outcome -/

/-- The responses given and the commands not yet answered. -/
def account (s : State) : Nat := s.responses.length + unanswered s

/-- A next state, if the outcome is one, has the account `m`, but for one less where it is faulted. -/
def AccountsFor (m : Nat) (o : Result) : Prop := ∀ t, o = .next t → account t + (if t.fault = 1 then 1 else 0) = m

theorem accountsFor_next {s : State} (hf : s.fault = 0) : AccountsFor (account s) (.next s) := by
  rintro _ ⟨⟩
  simp [hf]

theorem accountsFor_fault (m : Nat) (f : Fault) : AccountsFor m (.fault f) := by rintro _ ⟨⟩
theorem accountsFor_refused (m : Nat) (r : Refusal) : AccountsFor m (.refused r) := by rintro _ ⟨⟩

/-- A command is in execution on a core without a fault. -/
def Serving (s : State) : Prop := s.fault = 0 ∧ s.cur.isSome = true

/-- A response is one more, and the command that it answers is no longer unanswered (20_memory R53). -/
theorem Serving.accountsFor_respond {s : State} (h : Serving s) (r : Response) :
    AccountsFor (account s) (.next (respond r s)) := by
  obtain ⟨hf, hc⟩ := h
  rintro _ ⟨⟩
  simp [account, unanswered, hf, hc]
  omega

/-- A fatal fault loses the command in execution (60_exceptions R146). -/
theorem Serving.accountsFor_raiseFatal {s : State} (h : Serving s) (c : FatalCause) (w : CmdWord) :
    AccountsFor (account s) (.next (raiseFatal c w s)) := by
  obtain ⟨_, hc⟩ := h
  rintro _ ⟨⟩
  simp [account, unanswered, hc]
  omega

/-- What a part of a command keeps that neither responds nor faults. -/
structure SameAccount (s t : State) : Prop where
  fault : t.fault = s.fault
  cur : t.cur = s.cur
  resp : t.responses = s.responses
  commands : t.env.countP isCommand = s.env.countP isCommand

theorem SameAccount.trans {s u t : State} (h : SameAccount s u) (h' : SameAccount u t) : SameAccount s t :=
  ⟨h'.fault.trans h.fault, h'.cur.trans h.cur, h'.resp.trans h.resp, h'.commands.trans h.commands⟩

theorem SameAccount.account_eq {s t : State} (h : SameAccount s t) : account t = account s := by
  rw [account, account, unanswered, unanswered, h.cur, h.resp, h.commands]

theorem SameAccount.serving {s t : State} (h : SameAccount s t) (hs : Serving s) : Serving t := by
  rwa [Serving, h.fault, h.cur]

/-! ## ReadCore -/

/-- What a ReadCore that began in `s` may come to. -/
def CoreResult.keepsAccount (s : State) : CoreResult → Prop
  | .done _ _ _ t => SameAccount s t
  | .waiting t => SameAccount s t
  | .raised t => ∃ c w u, t = raiseFatal c w u ∧ SameAccount s u
  | .broken _ => True

theorem CoreResult.keepsAccount.after {s u : State} {res : CoreResult} (h : res.keepsAccount u) (hu : SameAccount s u) :
    res.keepsAccount s := by
  cases res with
  | done st v e t => exact hu.trans h
  | waiting t => exact hu.trans h
  | raised t =>
    obtain ⟨c, w, x, ht, hx⟩ := h
    exact ⟨c, w, x, ht, hu.trans hx⟩
  | broken f => trivial

theorem sameAccount_takeChunk (s : State) : SameAccount s (takeChunk s) := ⟨rfl, rfl, rfl, rfl⟩
theorem sameAccount_refill (bs : List Byte) (s : State) : SameAccount s (refill bs s) := ⟨rfl, rfl, rfl, rfl⟩

/-- A request that is answered takes no move but its answer (20_memory R41). -/
theorem sameAccount_of_answered {k : Nat} {r : SrcResponse} {s u : State} (h : sourceReadExact k s = .answered r u) :
    SameAccount s u := by
  rcases sourceReadExact_cases k s with ⟨r', u', e, _, hu⟩ | ⟨e, _⟩ | ⟨e, _⟩ <;> rw [e] at h <;> cases h
  rcases hu with ⟨rest, _, henv, rfl⟩ | ⟨held, _, _, rfl⟩
  · refine ⟨rfl, rfl, rfl, ?_⟩
    rw [henv, List.countP_cons_of_neg (by simp [isCommand])]
    rfl
  · exact ⟨rfl, rfl, rfl, rfl⟩

/-- What one turn that began in `s` may come to. -/
def LoopTurn.keepsAccount (s : State) : LoopTurn → Prop
  | .more t => SameAccount s t
  | .ends res => res.keepsAccount s

theorem readTurn_keepsAccount (s : State) : (readTurn s).keepsAccount s := by
  rw [readTurn]
  split
  · exact ⟨rfl, rfl, rfl, rfl⟩
  · split
    · cases h : sourceReadExact (refillSize s.work.rem.toNat) s with
      | answered r u =>
        have hu := sameAccount_of_answered h
        cases r with
        | ok bs => exact hu.trans ((sameAccount_refill bs u).trans (sameAccount_takeChunk _))
        | eofZero => exact hu
        | eofPartial j => exact hu
        | ioError e => exact hu
      | waiting u =>
        rcases sourceReadExact_cases (refillSize s.work.rem.toNat) s with ⟨_, _, e, _⟩ | ⟨e, _⟩ | ⟨e, _⟩ <;>
          rw [e] at h <;> cases h
        exact ⟨rfl, rfl, rfl, rfl⟩
      | broken f => trivial
    · exact sameAccount_takeChunk s

/-- The loop, by induction on its turns. -/
theorem readLoop_keepsAccount (fuel : Nat) (s : State) : (readLoop fuel s).keepsAccount s := by
  induction fuel generalizing s with
  | zero => exact ⟨rfl, rfl, rfl, rfl⟩
  | succ fuel ih =>
    have hturn := readTurn_keepsAccount s
    rw [readLoop]
    cases h : readTurn s with
    | more u => rw [h] at hturn; exact (ih u).after hturn
    | ends res => rw [h] at hturn; exact hturn

theorem readCore_keepsAccount (w : CmdWord) (n : Width) (s : State) : (readCore w n s).keepsAccount s := by
  rw [readCore]
  split
  · exact ⟨_, _, s, rfl, rfl, rfl, rfl, rfl⟩
  · exact (readLoop_keepsAccount _ _).after ⟨rfl, rfl, rfl, rfl⟩

theorem resumeCore_keepsAccount (r : SrcResponse) (s : State) : (resumeCore r s).keepsAccount s := by
  cases r with
  | ok bs => exact (readLoop_keepsAccount _ _).after (sameAccount_refill bs s)
  | eofZero => exact ⟨rfl, rfl, rfl, rfl⟩
  | eofPartial j => exact ⟨rfl, rfl, rfl, rfl⟩
  | ioError e => exact ⟨rfl, rfl, rfl, rfl⟩

/-! ## Commands -/

theorem finishRead_accounts {s : State} {res : CoreResult} (hs : Serving s) (h : res.keepsAccount s) :
    AccountsFor (account s) (finishRead res) := by
  cases res with
  | done st v e t =>
    have ht : SameAccount s t := h
    rw [← ht.account_eq]
    exact (ht.serving hs).accountsFor_respond _
  | waiting t =>
    have ht : SameAccount s t := h
    rw [← ht.account_eq]
    exact accountsFor_next (ht.fault.trans hs.1)
  | raised t =>
    obtain ⟨c, w, u, rfl, hu⟩ := h
    rw [← hu.account_eq]
    exact (hu.serving hs).accountsFor_raiseFatal c w
  | broken f => exact accountsFor_fault _ f

/-- A batch after its element's ReadCore: where it does not go on, it ends as a READ does. -/
theorem afterElement_accounts {s : State} {res : CoreResult} {goOn : State → Result} (hs : Serving s)
    (h : res.keepsAccount s) (hgo : ∀ t, Serving t → AccountsFor (account t) (goOn t)) :
    AccountsFor (account s) (afterElement res goOn) := by
  cases res with
  | done st v e t =>
    have ht : SameAccount s t := h
    rw [← ht.account_eq]
    by_cases hst : st = .ok
    · subst hst
      exact hgo (recordField v t) (ht.serving hs)
    · rw [afterElement_failed hst]
      exact (ht.serving hs).accountsFor_respond _
  | waiting t => exact finishRead_accounts (res := .waiting t) hs h
  | raised t => exact finishRead_accounts (res := .raised t) hs h
  | broken f => exact accountsFor_fault _ f

/-- The elements still to come, by induction. -/
theorem fieldsLoop_accounts (es : List CmdWord) : ∀ s, Serving s → AccountsFor (account s) (fieldsLoop es s) := by
  induction es with
  | nil => exact fun s hs => hs.accountsFor_respond _
  | cons w es ih =>
    intro s hs
    cases hd : decodeElement w with
    | none =>
      rw [fieldsLoop_illegal hd]
      exact Serving.accountsFor_raiseFatal (s := nextElement s) hs _ _
    | some n =>
      rw [fieldsLoop_cons hd]
      exact afterElement_accounts (s := nextElement s) hs (readCore_keepsAccount w n _) ih

theorem enterNextElement_accounts (es : List CmdWord) (s : State) (hs : Serving s) :
    AccountsFor (account s) (enterNextElement es s) := by
  have hraise : ∀ c w, AccountsFor (account s) (.next (raiseFatal c w (nextElement s))) :=
    Serving.accountsFor_raiseFatal (s := nextElement s) hs
  unfold enterNextElement
  cases es.drop s.work.idx.toNat with
  | nil => exact hs.accountsFor_respond _
  | cons w rest =>
    cases hd : decodeElement w with
    | none => simp only [hd]; exact hraise _ _
    | some n =>
      simp only [hd]
      split
      · exact hraise _ _
      · exact accountsFor_next (s := enterCore n (nextElement s)) hs.1

theorem finishInit_accounts {s : State} (hs : Serving s) : AccountsFor (account s) (.next (finishInit s)) :=
  Serving.accountsFor_respond (s := emptyResidue s) hs _

/-- A command in execution goes on after its ReadCore. -/
theorem continueCommand_accounts {s : State} {res : CoreResult} (hf : s.fault = 0) (h : res.keepsAccount s) :
    AccountsFor (account s) (continueCommand s res) := by
  unfold continueCommand
  match hc : s.cur with
  | none => exact accountsFor_refused _ _
  | some .init => exact accountsFor_refused _ _
  | some (.read n) => exact finishRead_accounts ⟨hf, by simp [hc]⟩ h
  | some (.fields es) => exact afterElement_accounts ⟨hf, by simp [hc]⟩ h (fieldsLoop_accounts _)

theorem runOn_accounts {s : State} (hf : s.fault = 0) : AccountsFor (account s) (runOn s) := by
  have hloop := readLoop_keepsAccount s.work.rem.toNat s
  match hc : s.cur with
  | none => simp only [runOn, hc]; exact accountsFor_refused _ _
  | some .init =>
    rw [runOn_init hc]
    exact finishInit_accounts ⟨hf, by simp [hc]⟩
  | some (.read n) =>
    rw [runOn_read hc]
    exact finishRead_accounts ⟨hf, by simp [hc]⟩ hloop
  | some (.fields es) =>
    have hs : Serving s := ⟨hf, by simp [hc]⟩
    by_cases hi : s.work.idx = 0
    · rw [runOn_batch_start hc hi]
      exact fieldsLoop_accounts es s hs
    · rw [runOn_element hc hi]
      exact afterElement_accounts hs hloop (fieldsLoop_accounts _)

theorem endTurn_accounts {finish : CoreResult → Result} {s : State} {turn : LoopTurn} (hf : s.fault = 0)
    (h : turn.keepsAccount s) (hfin : ∀ res : CoreResult, res.keepsAccount s → AccountsFor (account s) (finish res)) :
    AccountsFor (account s) (endTurn finish turn) := by
  cases turn with
  | more u =>
    have hu : SameAccount s u := h
    rw [← hu.account_eq]
    exact accountsFor_next (hu.fault.trans hf)
  | ends res => exact hfin res h

theorem commandTurn_accounts {s : State} (hf : s.fault = 0) : AccountsFor (account s) (commandTurn s) := by
  have hturn := readTurn_keepsAccount s
  match hc : s.cur with
  | none => simp only [commandTurn, hc]; exact accountsFor_refused _ _
  | some .init =>
    rw [commandTurn_of_init hc]
    exact finishInit_accounts ⟨hf, by simp [hc]⟩
  | some (.read n) =>
    rw [commandTurn_of_read hc]
    exact endTurn_accounts hf hturn fun res => finishRead_accounts ⟨hf, by simp [hc]⟩
  | some (.fields es) =>
    have hs : Serving s := ⟨hf, by simp [hc]⟩
    by_cases hi : s.work.idx = 0
    · rw [commandTurn_of_batch_start hc hi]
      exact enterNextElement_accounts es s hs
    · rw [commandTurn_of_element hc hi]
      exact endTurn_accounts hf hturn fun res hres => afterElement_accounts hs hres (enterNextElement_accounts es)

/-! ## Moves of the environment -/

/-- A command that is accepted was to come and is now in execution. -/
theorem account_begin {s : State} (hc : s.cur = none) (i : Instr) : account (begin i s) = account s + 1 := by
  simp [account, unanswered, hc]
  omega

theorem serving_begin {s : State} (hr : ready s) (i : Instr) : Serving (begin i s) := ⟨hr.1, rfl⟩

/-- A transaction that comes to a core without a fault. -/
theorem accept_accounts {s : State} {run : State → Result} {m : Nat} (hf : s.fault = 0)
    (h : ready s → AccountsFor m (run s)) : AccountsFor m (accept s run) := by
  by_cases hc : s.ctrl = .idle
  · rw [accept_ready ⟨hf, hc⟩]; exact h ⟨hf, hc⟩
  · rw [accept_busy hf hc]; exact accountsFor_refused _ _

theorem exec_accounts_of_ready {s : State} (hr : ready s) (hc : s.cur = none) (i : Instr) :
    AccountsFor (account s + 1) (exec i s) := by
  rw [← account_begin hc i]
  have hs := serving_begin hr i
  cases i with
  | read n =>
    rw [exec_read_ready hr]
    exact finishRead_accounts hs (readCore_keepsAccount _ n _)
  | fields es =>
    rw [exec_fields_ready hr]
    exact fieldsLoop_accounts es (enterBatch es.length (begin (.fields es) s)) hs
  | init =>
    rw [exec_init_ready hr]
    exact finishInit_accounts hs

theorem startCommand_accounts {s : State} (hr : ready s) (hc : s.cur = none) (i : Instr) :
    AccountsFor (account s + 1) (startCommand i s) := by
  rw [← account_begin hc i]
  have hs := serving_begin hr i
  cases i with
  | read n =>
    simp only [startCommand]
    split
    · exact hs.accountsFor_raiseFatal _ _
    · exact accountsFor_next (s := enterCore n (begin (.read n) s)) hs.1
  | fields es => exact accountsFor_next (s := enterBatch es.length (begin (.fields es) s)) hs.1
  | init => exact accountsFor_next hs.1

section
variable {s : State} (hf : s.fault = 0) (hidle : s.ctrl = .idle → s.cur = none)
include hf hidle

theorem exec_accounts (i : Instr) : AccountsFor (account s + 1) (exec i s) := by
  obtain ⟨run, h⟩ := exec_eq_accept i s
  rw [h]
  refine accept_accounts hf fun hr => ?_
  rw [← accept_ready hr run, ← h]
  exact exec_accounts_of_ready hr (hidle hr.2) i

/-- A transaction that is no command is lost to a fault, or refused (30_encoding R67, 20_memory R55). -/
theorem rejectTransaction_accounts (e : DecodeError) : AccountsFor (account s + 1) (rejectTransaction e s) := by
  rcases rejectTransaction_cases e s with ⟨w, _, h⟩ | ⟨_, h⟩ <;> rw [h] <;> refine accept_accounts hf fun hr => ?_
  · rintro _ ⟨⟩
    simp [account, unanswered, hidle hr.2]
  · exact accountsFor_refused _ _

/-- A transaction is one more command not yet answered (20_memory R52). -/
theorem offer_accounts (ws : List CmdWord) : AccountsFor (account s + 1) (offer ws s).outcome := by
  rw [offer]
  cases decode ws with
  | instr i => exact exec_accounts hf hidle i
  | rejected e => exact rejectTransaction_accounts hf hidle e

theorem offerHeld_accounts (ws : List CmdWord) : AccountsFor (account s + 1) (offerHeld ws s) := by
  rw [offerHeld]
  cases decode ws with
  | instr i => exact accept_accounts hf fun hr => startCommand_accounts hr (hidle hr.2) i
  | rejected e => exact rejectTransaction_accounts hf hidle e
end

/-- An answer, if what the core does with it, once it has taken it, keeps the account. -/
theorem answerRequest_accounts {r : SrcResponse} {s : State} {act : State → Result}
    (h : AccountsFor (account s) (act (takeAnswer s))) : AccountsFor (account s) (answerRequest r s act) := by
  rcases answerRequest_cases r s act with ⟨e, _⟩ | ⟨_, _, _, _, _, e⟩ | ⟨_, _, _, _, _, e⟩ <;> rw [e]
  · exact accountsFor_fault _ _
  · exact accountsFor_fault _ _
  · exact h

theorem sameAccount_takeAnswer (s : State) : SameAccount s (takeAnswer s) := ⟨rfl, rfl, rfl, rfl⟩

theorem deliverAnswer_accounts {s : State} (hf : s.fault = 0) (r : SrcResponse) :
    AccountsFor (account s) (deliverAnswer r s) :=
  answerRequest_accounts (continueCommand_accounts hf
    ((resumeCore_keepsAccount r (takeAnswer s)).after (sameAccount_takeAnswer s)))

theorem deliverAnswerHeld_accounts {s : State} (hf : s.fault = 0) (r : SrcResponse) :
    AccountsFor (account s) (deliverAnswerHeld r s) := by
  refine answerRequest_accounts ?_
  rcases coreAnswer_cases r (takeAnswer s) with ⟨bs, rfl, _⟩ | ⟨st, e, _, _, ha, _⟩
  · exact accountsFor_next (s := refill bs (takeAnswer s)) hf
  · simp only [ha]
    exact continueCommand_accounts hf (sameAccount_takeAnswer s)

/-- Every move but a reset, to a core without a fault. -/
theorem receive_accounts {s : State} {e : EnvEvent} (hf : s.fault = 0) (hidle : s.ctrl = .idle → s.cur = none)
    (he : e ≠ .reset) : AccountsFor (account s + if isCommand e = true then 1 else 0) (receive e s).outcome := by
  cases e with
  | command ws => exact offer_accounts hf hidle ws
  | commandHeld ws => exact offerHeld_accounts hf hidle ws
  | answer r => exact deliverAnswer_accounts hf r
  | answerHeld r => exact deliverAnswerHeld_accounts hf r
  | turn =>
    show AccountsFor (account s) (if running s then commandTurn s else .next s)
    split
    · exact commandTurn_accounts hf
    · exact accountsFor_next hf
  | abandonedAnswer r => exact accountsFor_next hf
  | reset => exact absurd rfl he
  | readStatus => exact accountsFor_next (s := readStatusView s) hf
  | bind src =>
    show AccountsFor (account s) (bindSource src s)
    rw [bindSource]
    split
    · exact accountsFor_next (s := { s with source := src }) hf
    · exact accountsFor_refused _ _
  | foreignConsume => exact accountsFor_refused _ _

/-- A faulted core has no request that an answer could be one to (20_memory R41, log entry 12). -/
theorem answerRequest_faulted {s : State} (hf : s.fault = 1) (r : SrcResponse) (act : State → Result) :
    answerRequest r s act = .fault .unsolicitedAnswer := by
  rcases answerRequest_cases r s act with ⟨e, _⟩ | ⟨_, hf0, _⟩ | ⟨_, hf0, _⟩
  · exact e
  · rw [hf] at hf0; cases hf0
  · rw [hf] at hf0; cases hf0

/-- A faulted core keeps the account through every move but a transaction and a reset, and stays faulted (60_exceptions
R148). -/
theorem receive_account_faulted {s t : State} {e : EnvEvent} (hf : s.fault = 1) (hcmd : isCommand e = false)
    (he : e ≠ .reset) (h : (receive e s).outcome = .next t) : account t = account s ∧ t.fault = 1 := by
  cases e with
  | command ws => cases hcmd
  | commandHeld ws => cases hcmd
  | answer r => simp only [receive, Action.outcome, deliverAnswer, answerRequest_faulted hf] at h; cases h
  | answerHeld r => simp only [receive, Action.outcome, deliverAnswerHeld, answerRequest_faulted hf] at h; cases h
  | turn =>
    simp only [receive, Action.outcome, running_of_faulted hf] at h
    cases h
    exact ⟨rfl, hf⟩
  | abandonedAnswer r => cases h; exact ⟨rfl, hf⟩
  | reset => exact absurd rfl he
  | readStatus => cases h; exact ⟨rfl, hf⟩
  | bind src =>
    simp only [receive, bindSource, Action.outcome] at h
    split at h <;> cases h
    exact ⟨rfl, hf⟩
  | foreignConsume => cases h

/-- A move that is a transaction is one that is held or one that is not. -/
theorem isCommand_cases {e : EnvEvent} (h : isCommand e = true) : ∃ ws, e = .command ws ∨ e = .commandHeld ws := by
  cases e with
  | command ws => exact ⟨ws, .inl rfl⟩
  | commandHeld ws => exact ⟨ws, .inr rfl⟩
  | _ => cases h

/-! ## The step -/

/-- A move that is taken leaves one command fewer to come, if it is a transaction. -/
theorem account_cons {s : State} {e : EnvEvent} {rest : List EnvEvent} (henv : s.env = e :: rest) :
    account s = account { s with env := rest } + if isCommand e = true then 1 else 0 := by
  simp only [account, unanswered, henv, List.countP_cons]
  omega

/-- A step of a core without a fault, if the next move is no reset. -/
theorem step_accounts {s : State} (hf : s.fault = 0) (hidle : s.ctrl = .idle → s.cur = none)
    (hne : ∀ rest, s.env ≠ .reset :: rest) : AccountsFor (account s) (step s) := by
  cases henv : s.env with
  | nil =>
    rw [step_of_env_nil henv]
    split
    · exact runOn_accounts hf
    · exact accountsFor_next hf
  | cons e rest =>
    rw [step_of_env_cons henv]
    split
    · exact runOn_accounts hf
    · rw [account_cons henv]
      exact receive_accounts (s := { s with env := rest }) hf hidle fun he => hne rest (by rw [henv, he])

/-- Such a step loses a command exactly where it comes to the faulted state. -/
theorem losesACommand_of_fault_zero {s t : State} (hf : s.fault = 0) (hne : ∀ rest, s.env ≠ .reset :: rest) :
    losesACommand s t = decide (t.fault = 1) := by
  unfold losesACommand
  split
  · exact absurd ‹_› (hne _)
  · rfl
  · rfl
  · simp [hf]

/-- A faulted core loses the command of a transaction, and no other. -/
theorem losesACommand_of_faulted {s t : State} {e : EnvEvent} {rest : List EnvEvent} (hf : s.fault = 1) (ht : t.fault = 1)
    (henv : s.env = e :: rest) (he : e ≠ .reset) : losesACommand s t = isCommand e := by
  cases e with
  | reset => exact absurd rfl he
  | _ => simp [losesACommand, isCommand, henv, hf, ht]

/-- A step of a faulted core, if the next move is no reset. -/
theorem step_account_faulted {s t : State} (hf : s.fault = 1) (hne : ∀ rest, s.env ≠ .reset :: rest)
    (h : step s = .next t) : account t + (if losesACommand s t then 1 else 0) = account s := by
  have hrun := running_of_faulted hf
  cases henv : s.env with
  | nil =>
    rw [step_of_env_nil henv, hrun] at h
    cases h
    simp [losesACommand, henv, hf]
  | cons e rest =>
    have he : e ≠ .reset := fun he => hne rest (by rw [henv, he])
    have hkeep : account t = account { s with env := rest } ∧ t.fault = 1 := by
      cases hcmd : isCommand e with
      | false =>
        rw [step_of_env_cons henv, if_neg (by simp [hrun])] at h
        exact receive_account_faulted (s := { s with env := rest }) hf hcmd he h
      | true =>
        obtain ⟨ws, hws⟩ := isCommand_cases hcmd
        rw [step_transaction_faulted (ws := ws) (rest := rest) hf (by simpa [henv] using hws)] at h
        cases h
        exact ⟨rfl, hf⟩
    obtain ⟨haccount, ht⟩ := hkeep
    rw [losesACommand_of_faulted hf ht henv he, haccount, account_cons henv]

/-- A reset loses the command in execution, if there is one (70_reset_and_hazards R171). -/
theorem step_account_reset {s t : State} {rest : List EnvEvent} (henv : s.env = .reset :: rest) (h : step s = .next t) :
    account t + (if losesACommand s t then 1 else 0) = account s := by
  obtain ⟨_, hdone⟩ := step_of_move (.inr rfl) henv
  rw [hdone _ rfl] at h
  cases h
  simp [account, unanswered, losesACommand, henv, isCommand]
  omega

/-- Settles O53: a step is a reset, or a step of a faulted core, or a step of one without a fault, whose command in execution
and whose next transaction end in one response or are lost. -/
theorem everyCommandRespondsOnceOrIsLost : Obligations.EveryCommandRespondsOnceOrIsLost := by
  intro s t hi h
  show account t + _ = account s
  by_cases hreset : ∃ rest, s.env = .reset :: rest
  · obtain ⟨rest, henv⟩ := hreset
    exact step_account_reset henv h
  have hne : ∀ rest, s.env ≠ .reset :: rest := fun rest henv => hreset ⟨rest, henv⟩
  rcases BitVec.eq_zero_or_eq_one s.fault with hf | hf
  · have hidle : s.ctrl = .idle → s.cur = none := fun hc => by
      obtain ⟨_, _, hcur⟩ := hi.boundary hc
      exact hcur
    simpa [losesACommand_of_fault_zero hf hne] using step_accounts hf hidle hne t h
  · exact step_account_faulted hf hne h

end Sys2Proof.Machine
end

section
/-! The formats of 30_encoding as equations of the decoder, one per opcode; both directions of the round trip between
commands and transactions follow (30_encoding R60 to R67). -/
namespace Sys2Proof
open Machine

/-! ## What the decoder does with each opcode -/

theorem opField_cases (w : CmdWord) : opField w = 0b00#2 ∨ opField w = 0b01#2 ∨ opField w = 0b10#2 ∨ opField w = 0b11#2 := by
  generalize opField w = op
  decide +revert

/-- Format R (30_encoding R61, R67 case 2). -/
theorem decode_formatR {w : CmdWord} (h : opField w = 0b00#2) :
    decode [w] = if rsvField w = 0 then .instr (.read (widthField w)) else .rejected (.reservedBitsSet w) := by
  simp [decode, decodeSingle, h]

/-- Format H: a header and its element words (30_encoding R62, R63). -/
theorem decode_formatH {w : CmdWord} (h : opField w = 0b01#2) (es : List CmdWord) :
    decode (w :: es) = if es.length = (countField w).toNat then .instr (.fields es) else .rejected .wrongLength := by
  simp [decode, h]

/-- Format I (30_encoding R64, R67 case 3). -/
theorem decode_formatI {w : CmdWord} (h : opField w = 0b10#2) :
    decode [w] = if zeroField w = 0 then .instr .init else .rejected (.initWithOperand w) := by
  simp [decode, decodeSingle, h]

/-- The reserved opcode (30_encoding R67 case 1). -/
theorem decode_reserved {w : CmdWord} (h : opField w = 0b11#2) : decode [w] = .rejected (.reservedOpcode w) := by
  simp [decode, decodeSingle, h]

/-- Only a FIELDS header has words after it (30_encoding R60). -/
theorem decode_tooLong {w : CmdWord} (h : opField w ≠ 0b01#2) (e : CmdWord) (es : List CmdWord) :
    decode (w :: e :: es) = .rejected .wrongLength := by
  rw [decode, if_neg h]

/-! ## The words of each command -/

/-- A READ word and an element word are one format (30_encoding R61, R66). -/
theorem decode_of_decodeElement {w : CmdWord} {n : Width} (h : decodeElement w = some n) : decode [w] = .instr (.read n) := by
  obtain ⟨⟨hop, hrsv⟩, hwidth⟩ := Option.ite_none_right_eq_some.mp h
  rw [decode_formatR hop, if_pos hrsv, Option.some.inj hwidth]

@[simp] theorem opField_encodeHeader (k : BitVec 14) : opField (encodeHeader k) = 0b01#2 := by
  have := k.isLt
  apply BitVec.eq_of_toNat_eq
  rw [opField_toNat, encodeHeader_toNat]
  simp
  omega

@[simp] theorem countField_encodeHeader (k : BitVec 14) : countField (encodeHeader k) = k := by
  apply BitVec.eq_of_toNat_eq
  rw [countField_toNat, encodeHeader_toNat, Nat.add_mod_left, Nat.mod_eq_of_lt k.isLt]

/-- A word with OP = 01 is the header of its COUNT (30_encoding R62). -/
theorem eq_encodeHeader_of_opField {w : CmdWord} (h : opField w = 0b01#2) : w = encodeHeader (countField w) := by
  have hop := congrArg BitVec.toNat h
  rw [opField_toNat] at hop
  apply BitVec.eq_of_toNat_eq
  rw [encodeHeader_toNat, countField_toNat]
  simp at hop
  omega

/-- A word with OP = 10 and ZERO = 0 is the word of INIT (30_encoding R64). -/
theorem eq_initWord {w : CmdWord} (hop : opField w = 0b10#2) (hzero : zeroField w = 0) : w = 0x8000#16 := by
  have hop' := congrArg BitVec.toNat hop
  have hzero' := congrArg BitVec.toNat hzero
  rw [opField_toNat] at hop'
  rw [zeroField_toNat] at hzero'
  apply BitVec.eq_of_toNat_eq
  simp at hop' hzero' ⊢
  omega

/-! ## The round trip -/

/-- Settles O1: the word of a READ is an element word, and the header of a FIELDS holds the number of its elements. -/
theorem decodeOfEncodeIsTheCommand : Obligations.DecodeOfEncodeIsTheCommand := by
  intro i hi
  cases i with
  | read n => exact decode_of_decodeElement (decodeElement_encodeWidth n)
  | fields es =>
    have hlen : es.length ≤ Config.maxCount := of_decide_eq_true hi
    have hcount : es.length = (BitVec.ofNat 14 es.length).toNat := by
      rw [BitVec.toNat_ofNat, Nat.mod_eq_of_lt (Nat.lt_succ_of_le hlen)]
    rw [encode, decode_formatH (opField_encodeHeader _), countField_encodeHeader, if_pos hcount]
  | init => decide

/-- A one-word transaction that decodes to a command, and is no header, is that command's word. -/
theorem encode_of_decode_single {w : CmdWord} {i : Instr} (hop : opField w ≠ 0b01#2) (h : decode [w] = .instr i) :
    encode i = [w] := by
  rcases opField_cases w with h0 | h1 | h2 | h3
  · rw [decode_formatR h0] at h
    split at h
    · rename_i hrsv
      cases h
      have helement : decodeElement w = some (widthField w) := if_pos ⟨h0, hrsv⟩
      rw [encode, ← encodeWidth_of_decodeElement helement]
    · cases h
  · exact absurd h1 hop
  · rw [decode_formatI h2] at h
    split at h
    · rename_i hzero
      cases h
      rw [encode, eq_initWord h2 hzero]
    · cases h
  · rw [decode_reserved h3] at h
    cases h

/-- A transaction that begins with a header and decodes is that header and its COUNT elements. -/
theorem encode_of_decode_header {w : CmdWord} {es : List CmdWord} {i : Instr} (hop : opField w = 0b01#2)
    (h : decode (w :: es) = .instr i) : encode i = w :: es := by
  rw [decode_formatH hop] at h
  split at h
  · rename_i hlen
    cases h
    rw [encode, hlen, BitVec.ofNat_toNat, BitVec.setWidth_eq, ← eq_encodeHeader_of_opField hop]
  · cases h

/-- Settles O2: every word of a transaction that decodes is determined, by its opcode and the fields that follow. -/
theorem encodeOfDecodeIsTheTransaction : Obligations.EncodeOfDecodeIsTheTransaction := by
  intro ws i h
  refine ⟨?_, wellFormed_of_decode h⟩
  cases ws with
  | nil => cases h
  | cons w es =>
    by_cases hop : opField w = 0b01#2
    · exact encode_of_decode_header hop h
    · cases es with
      | nil => exact encode_of_decode_single hop h
      | cons e es =>
        rw [decode_tooLong hop] at h
        cases h

end Sys2Proof
end

section
/-! The opcode map by match and mask (30_encoding R66, R67): a masked word says what its fields hold. -/
namespace Sys2Proof
open Machine

/-! ## Masks and fields -/

/-- The mask with the bits of one field set compares that field, and nothing else. -/
theorem and_fieldMask_eq_iff (w : CmdWord) {start len : Nat} (hfit : start + len ≤ 16) (v : BitVec len) :
    w &&& ((BitVec.allOnes len).setWidth 16 <<< start) = v.setWidth 16 <<< start ↔ w.extractLsb' start len = v := by
  constructor
  · intro h
    ext i hi
    have hbit := congrArg (fun x => x.getLsbD (start + i)) h
    have hlow : i < 16 := by omega
    have hhigh : start + i < 16 := by omega
    simpa [hi, hlow, hhigh, BitVec.getLsbD_eq_getElem] using hbit
  · rintro rfl
    ext i hi
    by_cases hlow : i < start
    · simp [hlow]
    · have hsum : start + (i - start) = i := by omega
      simp [hlow, hsum, hi, Bool.and_comm]

theorem and_opMask_eq_iff (w : CmdWord) (op : BitVec 2) : w &&& 0xC000#16 = op.setWidth 16 <<< 14 ↔ opField w = op :=
  and_fieldMask_eq_iff w (start := 14) (by decide) op

theorem and_rsvMask_eq_zero_iff (w : CmdWord) : w &&& 0x3F80#16 = 0x0000#16 ↔ rsvField w = 0 :=
  and_fieldMask_eq_iff w (start := 7) (by decide) (0 : BitVec 7)

theorem and_zeroMask_eq_zero_iff (w : CmdWord) : w &&& 0x3FFF#16 = 0x0000#16 ↔ zeroField w = 0 :=
  and_fieldMask_eq_iff w (start := 0) (by decide) (0 : BitVec 14)

/-- The mask of format R is that of OP and that of RSV together (30_encoding R61). -/
theorem and_formatRMask_eq_zero_iff (w : CmdWord) :
    w &&& 0xFF80#16 = 0x0000#16 ↔ opField w = 0b00#2 ∧ rsvField w = 0 := by
  have hmask : 0xFF80#16 = 0xC000#16 ||| 0x3F80#16 := by decide
  rw [hmask, BitVec.and_or_distrib_left, BitVec.or_eq_zero_iff, and_rsvMask_eq_zero_iff]
  exact and_congr_left' (and_opMask_eq_iff w 0b00#2)

theorem widthField_eq_setWidth (w : CmdWord) : widthField w = w.setWidth 7 :=
  BitVec.eq_of_toNat_eq (by rw [widthField_toNat, BitVec.toNat_setWidth])

/-! ## The rows of the map -/

/-- The element words' row (30_encoding R66). -/
theorem decodeElement_of_mask {w : CmdWord} (h : w &&& 0xFF80#16 = 0x0000#16) : decodeElement w = some (w.setWidth 7) := by
  rw [decodeElement, if_pos ((and_formatRMask_eq_zero_iff w).mp h), widthField_eq_setWidth]

/-- Settles O3: each row's mask names the opcode, and that opcode's format decodes. -/
theorem wordsDecodeByMatchAndMask : Obligations.WordsDecodeByMatchAndMask := by
  refine fun w => ⟨fun h => decode_of_decodeElement (decodeElement_of_mask h), fun h es hlen => ?_, fun h => ?_, fun h => ?_,
    decodeElement_of_mask⟩
  · rw [decode_formatH ((and_opMask_eq_iff w 0b01#2).mp h), if_pos (hlen.trans (countField_toNat w).symm)]
  · have hw : w = 0x8000#16 := BitVec.and_allOnes.symm.trans h
    rw [hw]
    decide
  · exact decode_reserved ((and_opMask_eq_iff w 0b11#2).mp h)

/-- The reports of an illegal word (30_encoding R67 cases 1 to 3), by the fields of the word. -/
theorem decode_illegal_iff (w : CmdWord) :
    (∃ e, decode [w] = .rejected e ∧ illegalWord e = some w) ↔
      (opField w = 0b11#2 ∨ (opField w = 0b00#2 ∧ rsvField w ≠ 0) ∨ (opField w = 0b10#2 ∧ zeroField w ≠ 0)) := by
  rcases opField_cases w with h | h | h | h
  · rw [decode_formatR h]
    split
    next hrsv => simpa [h] using hrsv
    next hrsv => simpa [h, illegalWord] using hrsv
  · rw [decode_formatH h]
    split <;> simp [h, illegalWord]
  · rw [decode_formatI h]
    split
    next hzero => simpa [h] using hzero
    next hzero => simpa [h, illegalWord] using hzero
  · simp [decode_reserved h, h, illegalWord]

theorem decodeElement_eq_none_iff (w : CmdWord) : decodeElement w = none ↔ opField w ≠ 0b00#2 ∨ rsvField w ≠ 0 := by
  simp only [decodeElement, ite_eq_right_iff, reduceCtorEq, imp_false, not_and_or, ne_eq]

/-- Settles O4: the masks of the statement compare OP, RSV and ZERO, by which `decode_illegal_iff` says what is illegal. -/
theorem illegalWordsAreTheReservedOnes : Obligations.IllegalWordsAreTheReservedOnes := by
  intro w
  have h00 : w &&& 0xC000#16 = 0x0000#16 ↔ opField w = 0b00#2 := and_opMask_eq_iff w 0b00#2
  have h10 : w &&& 0xC000#16 = 0x8000#16 ↔ opField w = 0b10#2 := and_opMask_eq_iff w 0b10#2
  have h11 : w &&& 0xC000#16 = 0xC000#16 ↔ opField w = 0b11#2 := and_opMask_eq_iff w 0b11#2
  simp only [ne_eq, h00, h10, h11, and_rsvMask_eq_zero_iff, and_zeroMask_eq_zero_iff]
  exact ⟨decode_illegal_iff w, decodeElement_eq_none_iff w⟩

/-- Settles O5: the decoder on the words of the vectors. -/
theorem sampleWordsDecode : Obligations.SampleWordsDecode := by
  unfold Obligations.SampleWordsDecode
  decide

end Sys2Proof
end

section
/-! The assembly syntax (30_encoding R71): a line in range gives the words that `encode` gives for its command. -/
namespace Sys2Proof
open Machine

theorem encodeWidth_ofNat {n : Nat} (h : n ≤ 127) : encodeWidth (BitVec.ofNat 7 n) = BitVec.ofNat 16 n := by
  apply BitVec.eq_of_toNat_eq
  rw [encodeWidth_toNat, BitVec.toNat_ofNat, BitVec.toNat_ofNat]
  omega

theorem encodeHeader_ofNat {k : Nat} (h : k ≤ Config.maxCount) :
    encodeHeader (BitVec.ofNat 14 k) = BitVec.ofNat 16 (0x4000 + k) := by
  have hk : k < 2 ^ 14 := Nat.lt_succ_of_le h
  apply BitVec.eq_of_toNat_eq
  rw [encodeHeader_toNat, BitVec.toNat_ofNat, BitVec.toNat_ofNat]
  omega

theorem assembleWidth_inRange {n : Nat} (h : n ≤ 127) : assembleWidth n = some (BitVec.ofNat 16 n) := by
  rw [assembleWidth, if_pos h, encodeWidth_ofNat h]

theorem assembleWidth_outOfRange {n : Nat} (h : 127 < n) : assembleWidth n = none :=
  if_neg (Nat.not_le.mpr h)

theorem assembleWidths_inRange {ns : List Nat} (h : ∀ n ∈ ns, n ≤ 127) :
    assembleWidths ns = some (ns.map (BitVec.ofNat 16)) := by
  induction ns with
  | nil => rfl
  | cons n ns ih =>
    obtain ⟨hn, hns⟩ := List.forall_mem_cons.mp h
    simp [assembleWidths, assembleWidth_inRange hn, ih hns]

/-- The words of a FIELDS, its elements given as numbers (30_encoding R62, R71). -/
theorem encode_fields_ofNat {ns : List Nat} (h : ns.length ≤ Config.maxCount) :
    encode (.fields (ns.map (BitVec.ofNat 16))) = BitVec.ofNat 16 (0x4000 + ns.length) :: ns.map (BitVec.ofNat 16) := by
  rw [encode, List.length_map, encodeHeader_ofNat h]

theorem assemble_fields_inRange {ns : List Nat} (hlen : ns.length ≤ Config.maxCount) (h : ∀ n ∈ ns, n ≤ 127) :
    assemble (.fields ns) = some (encode (.fields (ns.map (BitVec.ofNat 16)))) := by
  rw [assemble, if_pos hlen, assembleWidths_inRange h, encode, List.length_map, Option.map_some]

/-- Settles O6: each line gives the words of its command, which O1 decodes. -/
theorem assembledLinesDecodeToTheirCommands : Obligations.AssembledLinesDecodeToTheirCommands := by
  refine ⟨fun n hn => ⟨?_, ?_⟩, fun n hn => ?_, fun ns hlen hns => ?_, ⟨rfl, ?_⟩, rfl, ?_⟩
  · rw [assemble, assembleWidth_inRange hn, Option.map_some]
  · rw [← encodeWidth_ofNat hn]
    exact decodeOfEncodeIsTheCommand (.read _) rfl
  · rw [assemble, assembleWidth_outOfRange hn, Option.map_none]
  · have hwf : (Instr.fields (ns.map (BitVec.ofNat 16))).wellFormed = true := by
      simpa [Instr.wellFormed] using hlen
    rw [← encode_fields_ofNat hlen]
    exact ⟨assemble_fields_inRange hlen hns, decodeOfEncodeIsTheCommand _ hwf⟩
  · exact decodeOfEncodeIsTheCommand .init rfl
  · exact decodeOfEncodeIsTheCommand .nop rfl

end Sys2Proof
end

section
/-! A transaction with an illegal word (30_encoding R67, 60_exceptions R145, R146). -/
namespace Sys2Proof.Machine
open Safety

/-- The core takes the move and raises IllegalCommand, whether the transaction is held or not. -/
theorem step_transaction_illegal {s : State} {ws : List CmdWord} {rest : List EnvEvent} {e : DecodeError} {w : CmdWord}
    (hr : ready s) (henv : s.env = .command ws :: rest ∨ s.env = .commandHeld ws :: rest) (hd : decode ws = .rejected e)
    (hw : illegalWord e = some w) : step s = .next (raiseFatal .illegalCommand w { s with env := rest }) := by
  have hr' : ready { s with env := rest } := hr
  have hreject : rejectTransaction e { s with env := rest } =
      .next (raiseFatal .illegalCommand w { s with env := rest }) := by
    rw [rejectTransaction, hw]
    exact accept_ready hr' _
  refine step_of_transaction (running_of_ready hr) henv ?_ ?_
  · rw [offer, hd]; exact hreject
  · rw [offerHeld, hd]; exact hreject

/-- Settles O11: what `raiseFatal` writes and what it leaves. -/
theorem illegalCommandWordEntersTheFaultedState : Obligations.IllegalCommandWordEntersTheFaultedState := by
  intro s ws rest e w hr henv hd hw
  refine ⟨_, step_transaction_illegal hr henv hd hw, ?_⟩
  simp [FatalCause.code]

end Sys2Proof.Machine
end

section
/-! INIT, and the first request after it (40_init R80, R81). -/
namespace Sys2Proof.Machine
open Safety

/-- Settles O23: what `finishInit` writes and what it leaves. -/
theorem initEmptiesTheResidueAndRespondsOk : Obligations.InitEmptiesTheResidueAndRespondsOk := by
  intro s hr
  have hends : endsWell s (finishInit (begin .init s)) := ⟨rfl, rfl, ⟨rfl, rfl, rfl⟩, rfl⟩
  have hport : sameSourceSide s (finishInit (begin .init s)) := ⟨rfl, rfl, rfl, rfl⟩
  exact ⟨_, exec_init_ready hr, rfl, rfl, rfl, hends, hport⟩

/-- An empty residue leaves the block where the next source byte starts (10_state R34, 40_init R81). -/
theorem standsAt_of_emptied {S : List Byte} {p : Nat} {s t : State} (h : standsAt S p s) (h0 : t.rcnt = 0)
    (hsrc : t.source = s.source) : standsAt S (p + s.rcnt.toNat) t := by
  obtain ⟨hbyte, hle, hheld, _⟩ := h
  have hzero : t.rcnt.toNat = 0 := by simp [h0]
  rw [standsAt, hzero, hsrc]
  exact ⟨hbyte, hle, hheld, by rw [pow_zero, Nat.mod_one, fieldAt_zero]⟩

/-! ## The one request of a ReadCore -/

/-- The requests issued up to where a ReadCore returns, waits or faults are `ks`. -/
def CoreResult.hasRequested (ks : List Nat) : CoreResult → Prop
  | .done _ _ _ t => t.requests = ks
  | .waiting t => t.requests = ks
  | .raised t => t.requests = ks
  | .broken _ => True

/-- An answer, whatever it is, makes the ReadCore issue no further request (41_read R93 to R95, R103). -/
theorem coreAnswer_hasRequested (r : SrcResponse) (s : State) : (coreAnswer r s).hasRequested s.requests := by
  rcases coreAnswer_cases r s with ⟨bs, _, e⟩ | ⟨st, er, _, e, _⟩ <;> rw [e] <;> rfl

theorem coreRequest_hasRequested (k : Nat) (s : State) : (coreRequest k s).hasRequested (s.requests ++ [k]) := by
  rw [coreRequest]
  rcases sourceReadExact_cases k s with ⟨r, s', e, _, hs'⟩ | ⟨e, _⟩ | ⟨e, _⟩
  · have hreq : s'.requests = s.requests ++ [k] := by rcases hs' with ⟨_, _, _, rfl⟩ | ⟨_, _, _, rfl⟩ <;> rfl
    rw [e, ← hreq]
    exact coreAnswer_hasRequested r s'
  · rw [e]; rfl
  · rw [e]; trivial

/-- On an empty residue a ReadCore of 1 to 64 bits issues one request, of ceil(n/8) bytes (41_read R91, R103). -/
theorem readCore_hasRequested_of_empty {n : Width} {s : State} (w : CmdWord) (h1 : 1 ≤ n.toNat) (h64 : n.toNat ≤ 64)
    (h0 : s.rcnt = 0) : (readCore w n s).hasRequested (s.requests ++ [(n.toNat + 7) / 8]) := by
  have hzero : s.rcnt.toNat = 0 := by simp [h0]
  rw [readCore_shape, if_neg (by omega), if_neg (by omega), hzero, Nat.sub_zero]
  exact coreRequest_hasRequested (refillSize n.toNat) (takeChunk (enterCore n s))

/-! ## The requests of the command that the ReadCore serves -/

theorem finishRead_requests {res : CoreResult} {ks : List Nat} {u : State} (hres : res.hasRequested ks)
    (h : finishRead res = .next u) : u.requests = ks := by
  cases res with
  | done st v e t => cases h; exact hres
  | waiting t => cases h; exact hres
  | raised t => cases h; exact hres
  | broken f => cases h

/-- The requests of a batch's element come before those of the elements after it (42_read_fields R121, R125). -/
theorem afterElement_requests {res : CoreResult} {ks : List Nat} {es : List CmdWord} {u : State}
    (hres : res.hasRequested ks) (h : afterElement res (fieldsLoop es) = .next u) : ∃ more, u.requests = ks ++ more := by
  have stops {t : State} (ht : t.requests = ks) : ∃ more, t.requests = ks ++ more := ⟨[], by rw [ht, List.append_nil]⟩
  cases res with
  | done st v e t =>
    by_cases hst : st = .ok
    · subst hst
      obtain ⟨more, hmore, _⟩ := fieldsLoop_issuesAtMost es (recordField v t) u h
      exact ⟨more, hmore.trans (congrArg (· ++ more) hres)⟩
    · rw [afterElement_failed hst] at h; cases h; exact stops hres
  | waiting t => cases h; exact stops hres
  | raised t => cases h; exact stops hres
  | broken f => cases h

/-- A READ is one ReadCore, so its first request is its last (41_read R103, R110). -/
theorem read_requests_of_empty {n : Width} {s u : State} (hr : ready s) (h0 : s.rcnt = 0) (h1 : 1 ≤ n.toNat)
    (h64 : n.toNat ≤ 64) (h : exec (.read n) s = .next u) : u.requests = s.requests ++ [(n.toNat + 7) / 8] := by
  rw [exec_read_ready hr] at h
  exact finishRead_requests (readCore_hasRequested_of_empty (s := begin (.read n) s) _ h1 h64 h0) h

/-- A FIELDS runs the ReadCore of its first element first (42_read_fields R125). -/
theorem fields_requests_of_empty {n : Width} {es : List CmdWord} {s u : State} (hr : ready s) (h0 : s.rcnt = 0)
    (h1 : 1 ≤ n.toNat) (h64 : n.toNat ≤ 64) (h : exec (.fields (encodeWidth n :: es)) s = .next u) :
    ∃ more, u.requests = s.requests ++ (n.toNat + 7) / 8 :: more := by
  rw [exec_fields_ready hr, fieldsLoop_cons (decodeElement_encodeWidth n)] at h
  have hempty : (nextElement (enterBatch (es.length + 1) (begin (.fields (encodeWidth n :: es)) s))).rcnt = 0 := h0
  obtain ⟨more, hmore⟩ := afterElement_requests (readCore_hasRequested_of_empty _ h1 h64 hempty) h
  exact ⟨more, by simpa using hmore⟩

/-- Settles O24: INIT leaves the residue empty, so the position is the next source byte, a second INIT has nothing to
change, and the first ReadCore after it issues its request at once. -/
theorem initDiscardsTheResidue : Obligations.InitDiscardsTheResidue := by
  intro s t hr ht
  obtain ⟨t', ht', h0, _, _, ⟨hidle, _, ⟨hfault, _, _⟩, _⟩, hreq, _, hsrc, _⟩ := initEmptiesTheResidueAndRespondsOk s hr
  obtain rfl : t = t' := by simpa [ht] using ht'
  have hready : ready t := ⟨hfault.trans hr.1, hidle⟩
  obtain ⟨u, hu, hu0, hacc, _, hends, hport⟩ := initEmptiesTheResidueAndRespondsOk t hready
  rw [← hreq]
  exact ⟨fun S p hs => standsAt_of_emptied hs h0 hsrc,
    ⟨u, hu, hu0.trans h0.symm, hacc, hends, hport⟩,
    fun n u h1 h64 => read_requests_of_empty hready h0 h1 h64,
    fun n es u h1 h64 => fields_requests_of_empty hready h0 h1 h64⟩

end Sys2Proof.Machine
end

section
/-! READ and its one request: the residue serves it, or the source answers (41_read R90 to R112). -/
namespace Sys2Proof.Machine
open Safety

/-! ## What the source's answer leads to -/

/-- The answer that a request for `k` bytes gets at once, with the binding and the moves to come after it (20_memory R41,
R42, R57). -/
inductive SourceAnswers (k : Nat) (s : State) : SrcResponse → Source → List EnvEvent → Prop where
  | external {r : SrcResponse} {rest : List EnvEvent} (hs : s.source = .external) (he : s.env = .answer r :: rest)
      (hfit : r.fits k = true) : SourceAnswers k s r .external rest
  | reference {held : List Byte} (hs : s.source = .reference held) :
      SourceAnswers k s (referenceAnswer k held).1 (.reference (referenceAnswer k held).2) s.env

/-- The state in which a ReadCore of `n` bits meets the answer to its request: the residue drained, the request issued, the
answer taken (41_read R91, R92, R99). -/
def answered (n : Width) (src : Source) (env : List EnvEvent) (s : State) : State :=
  takeAnswer { issueRequest (refillSize (n.toNat - s.rcnt.toNat)) (takeChunk (enterCore n s)) with source := src, env := env }

section
variable (n : Width) (src : Source) (env : List EnvEvent) (s : State)

@[simp] theorem answered_acc : (answered n src env s).acc = s.acc := rfl
@[simp] theorem answered_fault : (answered n src env s).fault = s.fault := rfl
@[simp] theorem answered_faultCause : (answered n src env s).faultCause = s.faultCause := rfl
@[simp] theorem answered_faultInfo : (answered n src env s).faultInfo = s.faultInfo := rfl
@[simp] theorem answered_request : (answered n src env s).request = none := rfl
@[simp] theorem answered_source : (answered n src env s).source = src := rfl
@[simp] theorem answered_env : (answered n src env s).env = env := rfl
@[simp] theorem answered_responses : (answered n src env s).responses = s.responses := rfl
@[simp] theorem answered_requests :
    (answered n src env s).requests = s.requests ++ [refillSize (n.toNat - s.rcnt.toNat)] := rfl
@[simp] theorem answered_statusReads : (answered n src env s).statusReads = s.statusReads := rfl
@[simp] theorem answered_n : (answered n src env s).work.n = n := rfl
@[simp] theorem answered_rem_toNat : (answered n src env s).work.rem.toNat = n.toNat - s.rcnt.toNat := drained_rem n s

end

/-- The drained residue is the partial result (41_read R96 to R100). -/
theorem answered_val_toNat {n : Width} {s : State} (src : Source) (env : List EnvEvent) (h64 : n.toNat ≤ 64)
    (hlt : s.rcnt.toNat < n.toNat) : (answered n src env s).work.val.toNat = s.acc.toNat % 2 ^ s.rcnt.toNat := by
  have hval := drained_val n s h64
  rwa [Nat.sub_eq_zero_of_le hlt.le, pow_zero, Nat.div_one, min_eq_left hlt.le] at hval

/-- A ReadCore that the residue cannot serve acts on the answer to its one request (41_read R92, R103). -/
theorem readCore_answered {n : Width} {s : State} {r : SrcResponse} {src : Source} {env : List EnvEvent} (w : CmdWord)
    (h64 : n.toNat ≤ 64) (hlt : s.rcnt.toNat < n.toNat)
    (h : SourceAnswers (refillSize (n.toNat - s.rcnt.toNat)) s r src env) :
    readCore w n s = coreAnswer r (answered n src env s) := by
  have hdrained : readCore w n s = coreRequest (refillSize (n.toNat - s.rcnt.toNat)) (takeChunk (enterCore n s)) := by
    rw [readCore_shape, if_neg (by omega), if_neg (by omega)]
  rw [hdrained]
  cases h with
  | external hs he hfit =>
    rw [coreRequest_answer (s := takeChunk (enterCore n s)) _ hs he, if_pos hfit, answered, ← hs]
    rfl
  | reference hs => rw [coreRequest_reference (s := takeChunk (enterCore n s)) _ hs]; rfl

theorem exec_read_answered {n : Width} {s : State} {r : SrcResponse} {src : Source} {env : List EnvEvent} (hr : ready s)
    (h64 : n.toNat ≤ 64) (hlt : s.rcnt.toNat < n.toNat)
    (h : SourceAnswers (refillSize (n.toNat - s.rcnt.toNat)) s r src env) :
    exec (.read n) s = finishRead (coreAnswer r (answered n src env (begin (.read n) s))) := by
  have hbegin : SourceAnswers (refillSize (n.toNat - s.rcnt.toNat)) (begin (.read n) s) r src env := by
    cases h with
    | external hs he hfit => exact .external hs he hfit
    | reference hs => exact .reference (s := begin (.read n) s) hs
  rw [exec_read_ready hr, readCore_answered (s := begin (.read n) s) _ h64 hlt hbegin]

/-! ## A refill that succeeds -/

/-- Where a READ ends whose refill delivered the bytes `bs` (41_read R91, R93, R100, R103). -/
structure ReadRefilled (n : Width) (bs : List Byte) (src : Source) (env : List EnvEvent) (s t : State) : Prop where
  response : t.responses = s.responses ++ [valueResponse .ok (BitVec.ofNat 64
    (s.acc.toNat % 2 ^ s.rcnt.toNat * 2 ^ (n.toNat - s.rcnt.toNat) + fieldAt bs 0 (n.toNat - s.rcnt.toNat))) none]
  acc : t.acc.toNat = packBytes bs
  rcnt : t.rcnt.toNat = 8 * bs.length - (n.toNat - s.rcnt.toNat)
  requests : t.requests = s.requests ++ [bs.length]
  request : t.request = none
  source : t.source = src
  env : t.env = env
  ends : endsWell s t

/-- The first `m` bits of the packed bytes (41_read R93, R96). -/
theorem packBytes_div (bs : List Byte) {m : Nat} (h : m ≤ 8 * bs.length) :
    packBytes bs / 2 ^ (8 * bs.length - m) = fieldAt bs 0 m := by
  rw [← fieldAt_whole, (fieldAt_split h).1]

/-- The value of a ReadCore after its refill: the drained residue, then the first bits delivered (41_read R100). -/
theorem refilled_val {n : Width} {bs : List Byte} {s : State} (src : Source) (env : List EnvEvent) (h64 : n.toNat ≤ 64)
    (hlt : s.rcnt.toNat < n.toNat) (hlen : bs.length = refillSize (n.toNat - s.rcnt.toNat)) :
    (takeChunk (refill bs (answered n src env s))).work.val = BitVec.ofNat 64
      (s.acc.toNat % 2 ^ s.rcnt.toNat * 2 ^ (n.toNat - s.rcnt.toNat) + fieldAt bs 0 (n.toNat - s.rcnt.toNat)) := by
  have hlen8 : bs.length ≤ 8 := hlen ▸ refillSize_le (by omega)
  have henough : n.toNat - s.rcnt.toNat ≤ 8 * bs.length := hlen ▸ le_refillSize _
  have hrcnt := refill_rcnt_toNat (answered n src env s) hlen8
  have hacc := refill_acc_toNat (answered n src env s) hlen8
  have hval := answered_val_toNat src env h64 hlt
  have hroom : (refill bs (answered n src env s)).work.val.toNat < 2 ^ s.rcnt.toNat := by
    rw [refill_work, hval]; exact Nat.mod_lt _ (by positivity)
  have hfold := takeChunk_val_toNat hroom (by rw [hrcnt, refill_work, answered_rem_toNat]; omega)
  rw [hrcnt, hacc, refill_work, hval, answered_rem_toNat, min_eq_right henough, packBytes_div bs henough,
    Nat.mod_eq_of_lt (fieldAt_lt _ _ _)] at hfold
  rw [← hfold, BitVec.ofNat_toNat, BitVec.setWidth_eq]

theorem finishRead_refilled {n : Width} {bs : List Byte} {s : State} (src : Source) (env : List EnvEvent)
    (h64 : n.toNat ≤ 64) (hlt : s.rcnt.toNat < n.toNat) (hlen : bs.length = refillSize (n.toNat - s.rcnt.toNat)) :
    ∃ t, finishRead (coreAnswer (.ok bs) (answered n src env (begin (.read n) s))) = .next t ∧
      ReadRefilled n bs src env s t := by
  have hlen8 : bs.length ≤ 8 := hlen ▸ refillSize_le (by omega)
  refine ⟨_, rfl, ?_⟩
  constructor
  case response => rw [respond_responses, refilled_val (s := begin (.read n) s) src env h64 hlt hlen]; rfl
  case acc => rw [respond_acc, takeChunk_acc, refill_acc_toNat _ hlen8]
  case rcnt =>
    rw [respond_rcnt, takeChunk_rcnt_toNat, refill_rcnt_toNat _ hlen8, refill_work, answered_rem_toNat, begin_rcnt]
  case requests => simp [hlen]
  case ends => exact ⟨rfl, rfl, ⟨rfl, rfl, rfl⟩, rfl⟩
  all_goals rfl

/-! ## A refill that fails -/

/-- Where a READ ends whose refill failed with the status `st` and the code `e` (41_read R94, R106). -/
structure ReadFailed (n : Width) (st : Status) (e : Option Config.SrcErr) (src : Source) (env : List EnvEvent)
    (s t : State) : Prop where
  response : t.responses = s.responses ++ [valueResponse st 0 e]
  rcnt : t.rcnt = 0
  acc : t.acc = s.acc
  requests : t.requests = s.requests ++ [refillSize (n.toNat - s.rcnt.toNat)]
  request : t.request = none
  source : t.source = src
  env : t.env = env
  ends : endsWell s t

/-- R95's test on REM and N asks whether a bit was taken before the end of the stream (41_read R95, C1). -/
theorem eosStatus_eq {rem n : BitVec 7} (h : rem.toNat ≤ n.toNat) :
    eosStatus rem n = if n.toNat - rem.toNat = 0 then .cleanEos else .truncated := by
  have hiff : rem = n ↔ n.toNat - rem.toNat = 0 := by rw [← BitVec.toNat_inj]; omega
  simp only [eosStatus, hiff]

/-- A failure answer ends the ReadCore with the status that `failureOf` gives for the bits taken (41_read R94, R95). -/
theorem coreAnswer_of_failureOf {r : SrcResponse} {st : Status} {e : Option Config.SrcErr} {s : State}
    (hle : s.work.rem.toNat ≤ s.work.n.toNat) (h : failureOf (s.work.n.toNat - s.work.rem.toNat) r = some (st, e)) :
    coreAnswer r s = .done st 0 e s := by
  cases r with
  | ok bs => cases h
  | eofZero => cases h; rw [coreAnswer, onAnswer, eosStatus_eq hle]
  | eofPartial j => cases h; rfl
  | ioError code => cases h; rfl

theorem failureOf_ne_ok {r0 : Nat} {r : SrcResponse} {st : Status} {e : Option Config.SrcErr}
    (h : failureOf r0 r = some (st, e)) : st ≠ .ok := by
  rintro rfl
  cases r with
  | eofZero => by_cases h0 : r0 = 0 <;> simp [failureOf, h0] at h
  | _ => cases h

theorem finishRead_failed {n : Width} {r : SrcResponse} {st : Status} {e : Option Config.SrcErr} {s : State} (src : Source)
    (env : List EnvEvent) (hlt : s.rcnt.toNat < n.toNat) (h : failureOf s.rcnt.toNat r = some (st, e)) :
    ∃ t, finishRead (coreAnswer r (answered n src env (begin (.read n) s))) = .next t ∧ ReadFailed n st e src env s t := by
  have htaken : n.toNat - (n.toNat - s.rcnt.toNat) = s.rcnt.toNat := by omega
  have hcore := coreAnswer_of_failureOf (r := r) (st := st) (e := e) (s := answered n src env (begin (.read n) s))
    (by simp) (by simpa [htaken] using h)
  refine ⟨_, by rw [hcore]; rfl, ?_⟩
  constructor
  case rcnt => exact drained_rcnt n (begin (.read n) s) hlt
  case ends => exact ⟨rfl, rfl, ⟨rfl, rfl, rfl⟩, rfl⟩
  all_goals rfl

/-! ## The statements on READ -/

/-- Settles O30: the width is checked before ReadCore is entered, and `raiseFatal` writes no register but the fault's. -/
theorem readAboveSixtyFourEntersTheFaultedState : Obligations.ReadAboveSixtyFourEntersTheFaultedState := by
  intro s n hr h64
  rw [exec_read_ready hr, readCore_shape, if_pos h64]
  exact ⟨_, rfl, rfl, rfl, rfl, encodeWidth_toNat n, rfl, rfl, rfl, rfl, rfl, rfl, rfl, rfl, rfl⟩

/-- Settles O10: `startCommand` and ReadCore check the width alike. -/
theorem heldReadAboveSixtyFourFaultsAtOnce : Obligations.HeldReadAboveSixtyFourFaultsAtOnce := by
  intro s n rest hr henv h64
  rw [step_of_commandHeld hr henv (decode_of_decodeElement (decodeElement_encodeWidth n)), startCommand, if_pos h64,
    exec_read_ready (s := { s with env := rest }) hr, readCore_shape, if_pos h64]
  rfl

/-- Settles O26: one chunk from the residue's most significant end is the field, and no request is reached. -/
theorem readServedByTheResidue : Obligations.ReadServedByTheResidue := by
  intro s n hr h64 hle
  have hcore := readCore_shape (encodeWidth n) n (begin (.read n) s)
  rw [begin_rcnt, if_neg (by omega), if_pos hle] at hcore
  have hval := drained_val n (begin (.read n) s) h64
  rw [begin_rcnt, begin_acc, min_eq_right hle] at hval
  rw [exec_read_ready hr, hcore]
  refine ⟨_, rfl, ?_, ?_, rfl, ⟨rfl, rfl, ⟨rfl, rfl, rfl⟩, rfl⟩, rfl, rfl, rfl, rfl⟩
  · rw [respond_responses, ← hval, BitVec.ofNat_toNat, BitVec.setWidth_eq]; rfl
  · rw [respond_rcnt, takeChunk_rcnt_toNat]; rfl

/-- Settles O25: any residue serves a field of no bits, and its value is a number below 2^0. -/
theorem readOfWidthZeroIsANoOp : Obligations.ReadOfWidthZeroIsANoOp := by
  intro s hr
  obtain ⟨t, hexec, hresp, hrcnt, hacc, hends, hport⟩ := readServedByTheResidue s 0 hr (by decide) (Nat.zero_le _)
  exact ⟨t, hexec, by simpa [Nat.mod_one] using hresp, hacc, BitVec.eq_of_toNat_eq hrcnt, hends, hport⟩

/-- Settles O27: the answer refills, and the second chunk completes the field. -/
theorem readServedByARefill : Obligations.ReadServedByARefill := by
  intro s n bytes rest hr h64 hlt hs he hlen
  have hans : SourceAnswers (refillSize (n.toNat - s.rcnt.toNat)) s (.ok bytes) .external rest :=
    .external hs he (beq_iff_eq.mpr hlen)
  obtain ⟨t, ht, hend⟩ := finishRead_refilled .external rest h64 hlt hlen
  have hfew : 8 * bytes.length - (n.toNat - s.rcnt.toNat) ≤ 7 := by omega
  exact ⟨t, (exec_read_answered hr h64 hlt hans).trans ht, hend.response, hend.acc.trans (fieldAt_whole bytes).symm,
    hend.rcnt, hend.rcnt.trans_le hfew, hend.requests, hend.request, hend.source, hend.env, hend.ends⟩

/-- Settles O28: the failure answer ends ReadCore with the residue drained and ACC not written. -/
theorem readEndsOnAFailedRefill : Obligations.ReadEndsOnAFailedRefill := by
  intro s n r rest st e hr h64 hlt hs he hfit hfail
  obtain ⟨t, ht, hend⟩ := finishRead_failed .external rest hlt hfail
  exact ⟨t, (exec_read_answered hr h64 hlt (.external hs he hfit)).trans ht, hend.response, hend.rcnt, hend.acc,
    hend.requests, hend.request, hend.source, hend.env, hend.ends⟩

end Sys2Proof.Machine
end

section
/-! READ on a reference source: the fields of its stream, one after another, and the end of it (41_read R95, R104, R112;
20_memory R57). -/
namespace Sys2Proof.Machine
open Safety

/-! ## The bits of the residue and of a refill -/

/-- The most significant bits of the residue (10_state R22, 41_read R96). -/
theorem residue_div (acc : Nat) {n r : Nat} (h : n ≤ r) : acc / 2 ^ (r - n) % 2 ^ n = acc % 2 ^ r / 2 ^ (r - n) := by
  rw [← Nat.mod_mul_right_div_self, ← pow_add, Nat.sub_add_cancel h]

/-- A residue of stream bits serves a field of the stream and keeps the bits after it (10_state R22, 41_read R96, R99). -/
theorem residue_split {S : List Byte} {p acc n r : Nat} (hres : acc % 2 ^ r = fieldAt S p r) (h : n ≤ r) :
    acc / 2 ^ (r - n) % 2 ^ n = fieldAt S p n ∧ acc % 2 ^ (r - n) = fieldAt S (p + n) (r - n) := by
  obtain ⟨hfirst, hlast⟩ := fieldAt_split (S := S) (p := p) h
  constructor
  · rw [residue_div acc h, hres, hfirst]
  · rw [← mod_two_pow_of_le acc (Nat.sub_le r n), hres, hlast]

/-- `k` bytes of the stream from byte `b`, as the first `m` bits delivered and the new residue (41_read R93, R96). -/
theorem refill_split {S : List Byte} {b k m : Nat} (hin : b + k ≤ S.length) (hm : m ≤ 8 * k) :
    fieldAt ((S.drop b).take k) 0 m = fieldAt S (8 * b) m ∧
    packBytes ((S.drop b).take k) % 2 ^ (8 * k - m) = fieldAt S (8 * b + m) (8 * k - m) := by
  have hlen : ((S.drop b).take k).length = k := by rw [List.length_take, List.length_drop]; omega
  obtain ⟨hfirst, hlast⟩ := fieldAt_split (S := S) (p := 8 * b) hm
  rw [fieldAt_bytes S b k hin] at hfirst hlast
  have hdiv := packBytes_div ((S.drop b).take k) (m := m) (by rw [hlen]; exact hm)
  rw [hlen] at hdiv
  exact ⟨hdiv.symm.trans hfirst, hlast⟩

theorem streamField_toNat {S : List Byte} {p n : Nat} (h : n ≤ 64) : (BitVec.ofNat 64 (fieldAt S p n)).toNat = fieldAt S p n := by
  have hle : 2 ^ n ≤ 2 ^ 64 := Nat.pow_le_pow_right (by omega) h
  rw [BitVec.toNat_ofNat, Nat.mod_eq_of_lt ((fieldAt_lt S p n).trans_le hle)]

/-! ## One READ -/

/-- Where a READ of `n` bits ends that began at bit `p` of the stream and had its bits there (41_read R104). -/
structure ReadOfStream (S : List Byte) (p : Nat) (n : Width) (s t : State) : Prop where
  response : t.responses = s.responses ++ [valueResponse .ok (BitVec.ofNat 64 (fieldAt S p n.toNat)) none]
  position : standsAt S (p + n.toNat) t
  rcnt : s.rcnt.toNat ≤ 7 → t.rcnt.toNat ≤ 7
  env : t.env = s.env
  ends : endsWell s t

/-- The residue ends at a byte of the stream, which is where the source goes on (10_state R34). -/
theorem standsAt_iff {S : List Byte} {p : Nat} {s : State} :
    standsAt S p s ↔ ∃ b, 8 * b = p + s.rcnt.toNat ∧ b ≤ S.length ∧ s.source = .reference (S.drop b) ∧
      s.acc.toNat % 2 ^ s.rcnt.toNat = fieldAt S p s.rcnt.toNat := by
  constructor
  · rintro ⟨hbyte, hin, hheld, hres⟩
    exact ⟨(p + s.rcnt.toNat) / 8, by omega, by omega, hheld, hres⟩
  · rintro ⟨b, hb, hin, hheld, hres⟩
    rw [standsAt, ← hb, Nat.mul_div_cancel_left b (by omega)]
    exact ⟨Nat.mul_mod_right 8 b, by omega, hheld, hres⟩

/-- The residue is the stream from bit p on, so its first bits are the field. -/
theorem read_of_stream_residue {S : List Byte} {p : Nat} {s : State} {n : Width} (hr : ready s) (hp : standsAt S p s)
    (h64 : n.toNat ≤ 64) (hle : n.toNat ≤ s.rcnt.toNat) : ∃ t, exec (.read n) s = .next t ∧ ReadOfStream S p n s t := by
  obtain ⟨b, hb, hin, hheld, hres⟩ := standsAt_iff.mp hp
  obtain ⟨hvalue, hleft⟩ := residue_split hres hle
  obtain ⟨t, hexec, hresp, hrcnt, hacc, hends, _, _, hsrc, henv⟩ := readServedByTheResidue s n hr h64 hle
  have hposition : standsAt S (p + n.toNat) t :=
    standsAt_iff.mpr ⟨b, by omega, hin, hsrc.trans hheld, by rw [hacc, hrcnt]; exact hleft⟩
  exact ⟨t, hexec, hvalue ▸ hresp, hposition, by omega, henv, hends⟩

/-- The reference source delivers the next `k` bytes of its stream (20_memory R57). -/
theorem sourceAnswers_of_stream {S : List Byte} {b k : Nat} {s : State} (hheld : s.source = .reference (S.drop b))
    (hin : b + k ≤ S.length) : SourceAnswers k s (.ok ((S.drop b).take k)) (.reference (S.drop (b + k))) s.env := by
  have hanswer : referenceAnswer k (S.drop b) = (.ok ((S.drop b).take k), S.drop (b + k)) := by
    rw [referenceAnswer, if_pos (by rw [List.length_drop]; omega), List.drop_drop]
  simpa only [hanswer] using SourceAnswers.reference (k := k) hheld

/-- The residue and the bytes after it are the stream from bit p on: the field takes the residue and the first bits of the
refill, and the rest of the refill is the new residue. -/
theorem read_of_stream_refill {S : List Byte} {p : Nat} {s : State} {n : Width} (hr : ready s) (hp : standsAt S p s)
    (h64 : n.toNat ≤ 64) (hlt : s.rcnt.toNat < n.toNat) (hin : p + n.toNat ≤ 8 * S.length) :
    ∃ t, exec (.read n) s = .next t ∧ ReadOfStream S p n s t := by
  obtain ⟨b, hb, _, hheld, hres⟩ := standsAt_iff.mp hp
  obtain ⟨k, hk⟩ : ∃ k, k = refillSize (n.toNat - s.rcnt.toNat) := ⟨_, rfl⟩
  have henough : n.toNat - s.rcnt.toNat ≤ 8 * k := hk ▸ le_refillSize _
  have hfew : 8 * k ≤ n.toNat - s.rcnt.toNat + 7 := by rw [hk, refillSize]; omega
  have hinside : b + k ≤ S.length := by omega
  have hlen : ((S.drop b).take k).length = k := by rw [List.length_take, List.length_drop]; omega
  have hans : SourceAnswers (refillSize (n.toNat - s.rcnt.toNat)) s (.ok ((S.drop b).take k))
      (.reference (S.drop (b + k))) s.env := by
    rw [← hk]; exact sourceAnswers_of_stream hheld hinside
  obtain ⟨t, ht, hend⟩ := finishRead_refilled (.reference (S.drop (b + k))) s.env h64 hlt (hlen.trans hk)
  obtain ⟨hfirst, hleft⟩ := refill_split hinside henough
  have hrcnt : t.rcnt.toNat = 8 * k - (n.toNat - s.rcnt.toNat) := hlen ▸ hend.rcnt
  have hvalue : s.acc.toNat % 2 ^ s.rcnt.toNat * 2 ^ (n.toNat - s.rcnt.toNat) +
      fieldAt ((S.drop b).take k) 0 (n.toNat - s.rcnt.toNat) = fieldAt S p n.toNat := by
    rw [hres, hfirst, hb, ← fieldAt_add, Nat.add_sub_cancel' hlt.le]
  have hnext : 8 * b + (n.toNat - s.rcnt.toNat) = p + n.toNat := by omega
  have hposition : standsAt S (p + n.toNat) t :=
    standsAt_iff.mpr ⟨b + k, by omega, hinside, hend.source, by rw [hend.acc, hrcnt, hleft, hnext]⟩
  exact ⟨t, (exec_read_answered hr h64 hlt hans).trans ht, hvalue ▸ hend.response, hposition, by omega, hend.env, hend.ends⟩

theorem read_of_stream {S : List Byte} {p : Nat} {s : State} {n : Width} (hr : ready s) (hp : standsAt S p s)
    (h64 : n.toNat ≤ 64) (hin : p + n.toNat ≤ 8 * S.length) : ∃ t, exec (.read n) s = .next t ∧ ReadOfStream S p n s t := by
  rcases Nat.lt_or_ge s.rcnt.toNat n.toNat with hlt | hle
  · exact read_of_stream_refill hr hp h64 hlt hin
  · exact read_of_stream_residue hr hp h64 hle

/-- Settles O31: the residue is the next bits of the stream, whether it serves the field or a refill follows it. -/
theorem readDeliversTheFieldOfTheStream : Obligations.ReadDeliversTheFieldOfTheStream := by
  intro S p s n hr hp h64 hin
  obtain ⟨t, hexec, hend⟩ := read_of_stream hr hp h64 hin
  exact ⟨t, hexec, hend.response, hend.position, hend.rcnt, hend.env, hend.ends⟩

/-! ## READs one after another -/

/-- The values that READs of the widths `ns` return from bit `p` of the stream on. -/
def streamValues (S : List Byte) (p : Nat) (ns : List Nat) : List Word64 := (fieldsAt S p ns).map (BitVec.ofNat 64)

theorem streamValues_toNat {S : List Byte} {ns : List Nat} (h64 : ∀ n ∈ ns, n ≤ 64) (p : Nat) :
    (streamValues S p ns).map BitVec.toNat = fieldsAt S p ns := by
  induction ns generalizing p with
  | nil => rfl
  | cons n ns ih =>
    obtain ⟨hn, hns⟩ := List.forall_mem_cons.mp h64
    exact congrArg₂ List.cons (streamField_toNat hn) (ih hns (p + n))

/-- The values put together, each at its own width, after a number `a` already put together: the widths add up as the fields
do (`fieldAt_add`). -/
theorem foldl_streamValues {S : List Byte} {ns : List Width} (h64 : ∀ n ∈ ns, n.toNat ≤ 64) (p a : Nat) :
    (ns.zip (streamValues S p (ns.map BitVec.toNat))).foldl (fun a nv => a * 2 ^ nv.1.toNat + nv.2.toNat) a =
      a * 2 ^ (ns.map BitVec.toNat).sum + fieldAt S p (ns.map BitVec.toNat).sum := by
  induction ns generalizing p a with
  | nil => simp
  | cons n ns ih =>
    obtain ⟨hn, hns⟩ := List.forall_mem_cons.mp h64
    have hrest := ih hns (p + n.toNat) (a * 2 ^ n.toNat + fieldAt S p n.toNat)
    rw [← streamField_toNat hn] at hrest
    refine hrest.trans ?_
    rw [streamField_toNat hn, List.map_cons, List.sum_cons, fieldAt_add, pow_add]
    ring

/-- READs whose bits the stream has, one after another: each begins where the one before it has ended. -/
theorem runCommands_of_stream {S : List Byte} {ns : List Width} (h64 : ∀ n ∈ ns, n.toNat ≤ 64) {p : Nat} {s : State}
    (hr : ready s) (hp : standsAt S p s) (hin : p + (ns.map BitVec.toNat).sum ≤ 8 * S.length) :
    ∃ t, runCommands (ns.map .read) s = .next t ∧ respondedOk s t (streamValues S p (ns.map BitVec.toNat)) ∧
      standsAt S (p + (ns.map BitVec.toNat).sum) t := by
  induction ns generalizing p s with
  | nil => exact ⟨s, rfl, (List.append_nil _).symm, hp⟩
  | cons n ns ih =>
    obtain ⟨hn, hns⟩ := List.forall_mem_cons.mp h64
    simp only [List.map_cons, List.sum_cons, ← Nat.add_assoc] at hin ⊢
    obtain ⟨u, hexec, hend⟩ := read_of_stream hr hp hn (by omega)
    obtain ⟨hidle, _, ⟨hfault, _, _⟩, _⟩ := hend.ends
    obtain ⟨t, hrun, hresp, hpos⟩ := ih hns ⟨hfault.trans hr.1, hidle⟩ hend.position hin
    refine ⟨t, by rw [runCommands, hexec]; exact hrun, ?_, hpos⟩
    rw [respondedOk, hresp, hend.response, List.append_assoc]
    rfl

/-- Settles O33: the READs deliver the fields in order, and adjacent fields are one field. -/
theorem readsReproduceTheStream : Obligations.ReadsReproduceTheStream := by
  intro S p s ns hr hp h64 hin
  obtain ⟨t, hrun, hresp, hpos⟩ := runCommands_of_stream h64 hr hp hin
  refine ⟨t, streamValues S p (ns.map BitVec.toNat), hrun, hresp, streamValues_toNat ?_ p, ?_, hpos⟩
  · exact List.forall_mem_map.mpr h64
  · rw [foldl_streamValues h64, Nat.zero_mul, Nat.zero_add]

/-! ## The end of the stream -/

/-- A reference source that holds fewer bytes than a READ needs gives it a failure without a code, and has nothing left; the
READ had taken no bit and the source no byte exactly at a clean end (41_read R95, 20_memory R57). -/
theorem referenceAnswer_short {k r0 : Nat} {held : List Byte} (h : held.length < k) :
    (referenceAnswer k held).2 = [] ∧
    failureOf r0 (referenceAnswer k held).1 = some (if r0 = 0 ∧ held.length = 0 then .cleanEos else .truncated, none) := by
  rw [referenceAnswer, if_neg (by omega)]
  by_cases h0 : held.length = 0
  · rw [if_pos h0]; exact ⟨List.eq_nil_of_length_eq_zero h0, by simp [failureOf, h0]⟩
  · rw [if_neg h0]; exact ⟨rfl, by simp [failureOf, h0]⟩

/-- Settles O32: the bits missing after the residue are more than the source holds, and the block stands at the end exactly
when both are empty. -/
theorem readPastTheEndOfTheStream : Obligations.ReadPastTheEndOfTheStream := by
  intro S p s n hr hp h64 hout
  obtain ⟨b, hb, hin, hheld, _⟩ := standsAt_iff.mp hp
  have hlt : s.rcnt.toNat < n.toNat := by omega
  have hlen : (S.drop b).length = S.length - b := List.length_drop
  have hneeds := le_refillSize (n.toNat - s.rcnt.toNat)
  obtain ⟨hempty, hfail⟩ := referenceAnswer_short (k := refillSize (n.toNat - s.rcnt.toNat)) (r0 := s.rcnt.toNat)
    (held := S.drop b) (by omega)
  have hclean : s.rcnt.toNat = 0 ∧ (S.drop b).length = 0 ↔ p = 8 * S.length := by omega
  have hans := SourceAnswers.reference (k := refillSize (n.toNat - s.rcnt.toNat)) hheld
  simp only [hclean] at hfail
  rw [hempty] at hans
  obtain ⟨t, ht, hend⟩ := finishRead_failed (.reference []) s.env hlt hfail
  exact ⟨t, (exec_read_answered hr h64 hlt hans).trans ht, hend.response, hend.rcnt, hend.acc, hend.source,
    ⟨_, hend.requests⟩, hend.env, hend.ends⟩

end Sys2Proof.Machine
end

section
/-! The ends of a ReadCore: its value, and what a failure leaves (41_read R94 to R106), at once and after a wait
(20_memory R41, 42_read_fields R123). -/
namespace Sys2Proof.Machine
open Safety

/-- A chunk taken from a loop that keeps VAL < 2^(N−REM) has room in VAL (41_read R101). -/
theorem takeChunk_val_exact {s : State} (h64 : s.work.n.toNat ≤ 64) (hle : s.work.rem.toNat ≤ s.work.n.toNat)
    (hv : s.work.val.toNat < 2 ^ (s.work.n.toNat - s.work.rem.toNat)) :
    (takeChunk s).work.val.toNat = fold s.work.val.toNat (min s.rcnt.toNat s.work.rem.toNat)
      (chunk s.acc.toNat s.rcnt.toNat (min s.rcnt.toNat s.work.rem.toNat)) := by
  have hsub : s.rcnt.toNat - min s.rcnt.toNat s.work.rem.toNat = s.rcnt.toNat - s.work.rem.toNat := by omega
  rw [takeChunk_val_toNat hv (by omega), fold_eq (chunk_lt _ _ _), chunk_eq, hsub]

/-- A ReadCore that ends at once returns OK with a value of at most `n` bits, or another status after a failed refill
(41_read R100, R101, R106). -/
theorem readCore_done_cases {w : CmdWord} {n : Width} {s t : State} {st : Status} {v : Word64} {e : Option Config.SrcErr}
    (h : readCore w n s = .done st v e t) :
    n.toNat ≤ 64 ∧ ((st = .ok ∧ v.toNat < 2 ^ n.toNat) ∨
      (v = 0 ∧ t.rcnt = 0 ∧ t.acc = s.acc ∧ ∀ held, s.source = .reference held → t.source = .reference [])) := by
  rcases readCore_cases w n s with ⟨_, hcore⟩ | ⟨h64, _, _, hcore, _, _, hv, _⟩ |
    ⟨h64, _, _, _, _, hcore, _, hrcnt, hacc, hsrc, _⟩ | ⟨_, _, _, _, hcore, _⟩ | ⟨_, hcore, _⟩ <;> rw [hcore] at h <;> cases h
  · exact ⟨h64, .inl ⟨rfl, hv⟩⟩
  · exact ⟨h64, .inr ⟨rfl, hrcnt, hacc, hsrc⟩⟩

/-- Settles O34: the chunk has at most the REM bits that VAL has room for, and a returned value is the last of these folds,
or 0. -/
theorem foldNeverOverflows : Obligations.FoldNeverOverflows := by
  refine ⟨fun s hle h64 hv => ?_, fun w n s t st v e h => ?_⟩
  · have hexact := takeChunk_val_exact h64 hle hv
    refine ⟨hexact, hexact ▸ fold_lt (chunk_lt _ _ _) hv, ?_, fun hm => ?_⟩
    · rw [takeChunk_n, takeChunk_rem_toNat]; omega
    · have hnone : s.work.n.toNat - s.work.rem.toNat = 0 := by omega
      rw [hnone, pow_zero] at hv
      exact ⟨BitVec.eq_of_toNat_eq (Nat.lt_one_iff.mp hv), by omega⟩
  · obtain ⟨h64, ⟨_, hv⟩ | ⟨rfl, _⟩⟩ := readCore_done_cases h
    · exact ⟨hv, h64⟩
    · exact ⟨Nat.two_pow_pos _, h64⟩

/-- Settles O35: of the ends of a ReadCore only a failed refill returns another status than OK. -/
theorem failedReadCoreLosesTheResidue : Obligations.FailedReadCoreLosesTheResidue := by
  intro w n s t st v e h hst
  obtain ⟨_, ⟨hok, _⟩ | ⟨hv, hrcnt, hacc, hsrc⟩⟩ := readCore_done_cases h
  · exact absurd hok hst
  · exact ⟨hrcnt, hacc, hv, hsrc⟩

/-- What a batch makes of an element's status, as one condition (42_read_fields R123, C2). -/
theorem batchStatus_eq (consumed : Nat) (st : Status) :
    batchStatus consumed st = if st = .cleanEos ∧ 0 < consumed then .truncated else st := by
  cases st with
  | cleanEos => by_cases h : consumed = 0 <;> simp [batchStatus, h, Nat.pos_iff_ne_zero]
  | _ => rfl

/-- The response of a command whose ReadCore failed (41_read R110, 42_read_fields R123, R124). -/
def failureResponse (s : State) (st : Status) (e : Option Config.SrcErr) : Response :=
  match s.cur with
  | some (.fields _) => listResponse (batchStatus s.work.consumed st) [] e
  | _ => valueResponse st 0 e

/-- A failed ReadCore ends a waiting command with one response (20_memory R41 step 3). -/
theorem continueCommand_failed {s : State} {st : Status} {e : Option Config.SrcErr} (hw : waitingCommandLegal s)
    (hst : st ≠ .ok) :
    continueCommand s (.done st 0 e (takeAnswer s)) = .next (respond (failureResponse s st e) (takeAnswer s)) := by
  unfold waitingCommandLegal at hw
  unfold continueCommand failureResponse
  split at hw
  next hc => rw [hc]; rfl
  next hc => rw [hc]; exact afterElement_failed hst 0 e (takeAnswer s) _
  next => exact hw.elim
  next => exact hw.elim

/-- Settles O49: the answer ends the waiting ReadCore, and with it the READ, or the batch at that element. -/
theorem waitingCommandEndsOnAFailure : Obligations.WaitingCommandEndsOnAFailure := by
  intro s r rest k st e hi hc henv hk hfit hfail
  have hfault : s.fault = 0 := fault_zero_of_not_idle hi.faults (by simp [hc])
  obtain ⟨h0, _, _, _, ⟨hle, _⟩, hcmd⟩ := hi.wait hc
  have hwait : waitLegal { s with env := rest } := hi.wait
  obtain ⟨_, hdone⟩ := step_of_move (.inl (running_of_waiting hc)) henv
  have hcore := coreAnswer_of_failureOf (r := r) (s := takeAnswer { s with env := rest }) hle hfail
  have hstep : step s = .next (respond (failureResponse s st e) (takeAnswer { s with env := rest })) := by
    rw [hdone _ rfl, deliver_legal (s := { s with env := rest }) hfault hwait hc hk hfit, hcore]
    exact continueCommand_failed (s := { s with env := rest }) hcmd (failureOf_ne_ok hfail)
  refine ⟨_, hstep, ⟨hfault, rfl⟩, h0, rfl, rfl, rfl, fun n hcur => ?_, fun es hcur => ?_⟩
  · rw [respond_responses, failureResponse, hcur]; rfl
  · rw [respond_responses, failureResponse, hcur, ← batchStatus_eq]; rfl

end Sys2Proof.Machine
end

section
/-! FIELDS is its READs: the batch goes beside the host's READs to the element where it ends, which responds, faults or fails
as the READ does; and what the READs do on a reference source, the FIELDS does (42_read_fields R120 to R127). -/
namespace Sys2Proof.Machine
open Safety

/-! ## The batch up to an element -/

/-- A batch begins where its READs begin (42_read_fields R120). -/
theorem besideReads_of_ready {s : State} (hr : ready s) (es : List CmdWord) :
    BesideReads s (enterBatch es.length (begin (.fields es) s)) :=
  ⟨hr, rfl, rfl, rfl, rfl, rfl, rfl, rfl⟩

/-- The batch `d`, begun in `s`, has delivered the fields `vs` of the widths `ns`, and its READs stand in `u`. -/
structure BatchReached (ns : List Width) (vs : List Word64) (s u d : State) : Prop where
  beside : BesideReads u d
  results : d.work.results = vs
  consumed : d.work.consumed = (ns.map BitVec.toNat).sum
  faults : sameFaults s d
  resp : d.responses = s.responses
  stat : d.statusReads = s.statusReads

/-- A FIELDS reaches the elements after those whose READs all respond OK (42_read_fields R121, R125). -/
theorem exec_fields_reaches {ns : List Width} {s u : State} {vs : List Word64} (hr : ready s)
    (hrun : runCommands (ns.map .read) s = .next u) (hok : respondedOk s u vs) (hlen : vs.length = ns.length)
    (rest : List CmdWord) :
    ∃ d, BatchReached ns vs s u d ∧ exec (.fields (ns.map encodeWidth ++ rest)) s = fieldsLoop rest d := by
  obtain ⟨d, hd, hdel, hloop⟩ :=
    fieldsLoop_beside_reads ns (besideReads_of_ready hr (ns.map encodeWidth ++ rest)) hrun hok hlen
  exact ⟨d, ⟨hd, hdel.results, hdel.consumed.trans (Nat.zero_add _), hdel.faults, hdel.resp, hdel.stat⟩,
    (exec_fields_ready hr _).trans (hloop rest)⟩

/-- READs that all respond OK leave the core ready (20_memory R52). -/
theorem ready_of_responded_ok {ns : List Width} {s u : State} {vs : List Word64} (hr : ready s)
    (hrun : runCommands (ns.map .read) s = .next u) (hok : respondedOk s u vs) (hlen : vs.length = ns.length) : ready u := by
  obtain ⟨d, hd, _⟩ := exec_fields_reaches hr hrun hok hlen []
  exact hd.beside.ready

/-! ## How a batch ends -/

/-- Settles O40: beside its READs the batch comes to the end of its list. -/
theorem fieldsCompleteAsTheirReads : Obligations.FieldsCompleteAsTheirReads := by
  intro ns s u vs hr hrun hok hlen
  obtain ⟨d, hd, hexec⟩ := exec_fields_reaches hr hrun hok hlen []
  rw [List.append_nil] at hexec
  refine ⟨_, hexec, ?_, hd.beside.stream, rfl, rfl, hd.faults, hd.stat⟩
  rw [respond_responses, hd.resp, hd.results]

/-- An element word that is illegal or has a width above 64 faults with the cause of which it is (42_read_fields R122,
60_exceptions R144, R145). -/
theorem fieldsLoop_faults {w : CmdWord} (hw : ∀ n, decodeElement w = some n → 64 < n.toNat) (es : List CmdWord) (s : State) :
    ∃ c : FatalCause, c.code = (if decodeElement w = none then 5 else 4) ∧
      fieldsLoop (w :: es) s = .next (raiseFatal c w (nextElement s)) := by
  cases hd : decodeElement w with
  | none => exact ⟨.illegalCommand, rfl, fieldsLoop_illegal hd es s⟩
  | some n =>
    refine ⟨.contractViolation, rfl, ?_⟩
    rw [fieldsLoop_cons hd, readCore_shape, if_pos (hw n hd)]
    rfl

/-- Settles O41: beside the READs before it the batch comes to the word that faults, and the fault writes no register but its
own. -/
theorem fieldsFaultAfterTheirReads : Obligations.FieldsFaultAfterTheirReads := by
  intro ns w after s u vs hr hrun hok hlen hw
  obtain ⟨d, hd, hexec⟩ := exec_fields_reaches hr hrun hok hlen (w :: after)
  obtain ⟨c, hcause, hfault⟩ := fieldsLoop_faults hw after d
  exact ⟨_, hexec.trans hfault, rfl, hcause, rfl, rfl, rfl, hd.resp, hd.stat, hd.beside.stream⟩

/-- Where no response was given, none was added to those before (20_memory R53). -/
theorem no_response_of_silent {s x : State} {r : Response} (h : x.responses = s.responses) :
    x.responses ≠ s.responses ++ [r] := by
  rw [h]; simp

/-- A READ that responded with a status other than OK had a ReadCore of a legal width that returned it (41_read R110). -/
theorem readCore_of_responded_failed {n : Width} {s z : State} {st : Status} {v : Word64} {e : Option Config.SrcErr}
    (hr : ready s) (h : exec (.read n) s = .next z) (hresp : z.responses = s.responses ++ [valueResponse st v e])
    (hst : st ≠ .ok) :
    n.toNat ≤ 64 ∧ ∃ x, readCore (encodeWidth n) n (begin (.read n) s) = .done st v e x ∧
      z = respond (valueResponse st v e) x := by
  rw [exec_read_ready hr] at h
  rcases readCore_cases (encodeWidth n) n (begin (.read n) s) with
    ⟨_, e'⟩ | ⟨_, _, x, e', hx, _⟩ | ⟨h64, st', er, x, _, e', hx, _⟩ | ⟨_, _, x, _, e', hx, _⟩ | ⟨_, e', _⟩ <;>
    rw [e'] at h <;> cases h
  · exact absurd hresp (no_response_of_silent rfl)
  · have hx' : x.responses = s.responses := hx.resp
    rw [respond_responses, hx'] at hresp
    exact absurd (congrArg Response.status (List.singleton_inj.mp (List.append_cancel_left hresp))).symm hst
  · have hx' : x.responses = s.responses := hx.resp
    rw [respond_responses, hx'] at hresp
    obtain ⟨rfl, rfl, _, rfl⟩ := Response.mk.inj (List.singleton_inj.mp (List.append_cancel_left hresp))
    exact ⟨h64, x, e', rfl⟩
  · exact absurd hresp (no_response_of_silent hx.resp)

/-- Settles O42: the failing element's ReadCore is the READ's, and CONSUMED is what the elements before it delivered. -/
theorem fieldsFailAfterTheirReads : Obligations.FieldsFailAfterTheirReads := by
  intro ns n after s u z vs st e hr hrun hok hlen he hresp hst
  obtain ⟨d, hd, hexec⟩ := exec_fields_reaches hr hrun hok hlen (encodeWidth n :: after)
  obtain ⟨h64, x, hcore, rfl⟩ := readCore_of_responded_failed hd.beside.ready he hresp hst
  have hconsumed : (carry (nextElement d) x).work.consumed = (ns.map BitVec.toNat).sum := hd.consumed
  rw [fieldsLoop_cons (decodeElement_encodeWidth n),
    readCore_of_sameEntry (hd.beside.sameEntry (.read n)) h64 _ (encodeWidth n), hcore, CoreResult.carry,
    afterElement_failed hst, hconsumed, batchStatus_eq] at hexec
  exact ⟨_, hexec, congrArg (· ++ _) hd.resp, ⟨rfl, rfl, rfl, rfl, rfl⟩, rfl, rfl, hd.faults, hd.stat⟩

/-! ## From a batch that responds OK to its READs -/

/-- A batch that responds OK has gone on after its element: the ReadCore was of a legal width and returned OK
(42_read_fields R123, R125). -/
theorem readCore_of_batch_ok {w : CmdWord} {n : Width} {c t : State} {vs : List Word64} {goOn : State → Result}
    (h : afterElement (readCore w n c) goOn = .next t) (hresp : t.responses = c.responses ++ [listResponse .ok vs none])
    (hb : c.ctrl = .busy) :
    n.toNat ≤ 64 ∧ ∃ v x, readCore w n c = .done .ok v none x ∧ x.responses = c.responses ∧ x.ctrl = .busy := by
  rcases readCore_cases w n c with
    ⟨_, e⟩ | ⟨h64, v, x, e, hx, _, _, _, hc, _⟩ | ⟨_, st, er, x, hst, e, hx, _⟩ | ⟨_, _, x, _, e, hx, _⟩ | ⟨_, e, _⟩
  · rw [e] at h; cases h
    exact absurd hresp (no_response_of_silent rfl)
  · exact ⟨h64, v, x, e, hx.resp, hc.elim (·.trans hb) id⟩
  · rw [e, afterElement_failed hst] at h; cases h
    rw [respond_responses, hx.resp] at hresp
    have hstatus : batchStatus x.work.consumed st = .ok :=
      congrArg Response.status (List.singleton_inj.mp (List.append_cancel_left hresp))
    rw [batchStatus_eq] at hstatus
    split at hstatus
    · cases hstatus
    · exact absurd hstatus hst
  · rw [e] at h; cases h
    exact absurd hresp (no_response_of_silent hx.resp)
  · rw [e] at h; cases h

/-- The READ of an element that returned OK responds OK and stands beside the batch that goes on (42_read_fields R121,
R127). -/
theorem BesideReads.read_of_element {s c x : State} {w : CmdWord} {n : Width} {v : Word64} (h : BesideReads s c)
    (h64 : n.toNat ≤ 64) (hcore : readCore w n (nextElement c) = .done .ok v none x) (hb : x.ctrl = .busy) :
    ∃ t, exec (.read n) s = .next t ∧ t.responses = s.responses ++ [valueResponse .ok v none] ∧ sameFaults s t ∧
      BesideReads t (recordField v x) := by
  obtain ⟨hctrl, hreq, hacc, hrcnt, hreqs, hsrc, henv⟩ := h.sameEntry (.read n)
  have hentry : SameEntry (nextElement c) (begin (.read n) s) :=
    ⟨hctrl.symm, hreq.symm, hacc.symm, hrcnt.symm, hreqs.symm, hsrc.symm, henv.symm⟩
  refine ⟨respond (valueResponse .ok v none) (carry (begin (.read n) s) x), ?_, rfl, ⟨rfl, rfl, rfl⟩,
    ⟨⟨h.ready.1, rfl⟩, hb, rfl, rfl, rfl, rfl, rfl, rfl⟩⟩
  rw [exec_read_ready h.ready, readCore_of_sameEntry hentry h64 _ w, hcore]
  rfl

/-- Beside a batch that responds OK its READs all respond OK, by induction on the elements still to come (42_read_fields
R127). -/
theorem reads_of_fieldsLoop_ok (es : List CmdWord) :
    ∀ {s c t : State} {vs : List Word64}, BesideReads s c → fieldsLoop es c = .next t →
      t.responses = c.responses ++ [listResponse .ok vs none] →
      ∃ (ns : List Width) (u : State) (ws : List Word64), es = ns.map encodeWidth ∧
        runCommands (ns.map .read) s = .next u ∧ respondedOk s u ws ∧ ws.length = ns.length ∧ sameFaults s u := by
  induction es with
  | nil =>
    intro s c t vs _ _ _
    exact ⟨[], s, [], rfl, rfl, (List.append_nil _).symm, rfl, rfl, rfl, rfl⟩
  | cons w es ih =>
    intro s c t vs h he hresp
    cases hd : decodeElement w with
    | none =>
      rw [fieldsLoop_illegal hd] at he
      cases he
      exact absurd hresp (no_response_of_silent rfl)
    | some n =>
      rw [fieldsLoop_cons hd] at he
      obtain ⟨h64, v, x, hcore, hx, hb⟩ := readCore_of_batch_ok he hresp h.busy
      rw [hcore] at he
      obtain ⟨s', hread, hresp', ⟨hf, hc, hi⟩, hbeside⟩ := h.read_of_element h64 hcore hb
      have hx' : (recordField v x).responses = c.responses := hx
      obtain ⟨ns, u, ws, rfl, hrun, hok, hlen, hf', hc', hi'⟩ := ih hbeside he (hx'.symm ▸ hresp)
      refine ⟨n :: ns, u, v :: ws, ?_, ?_, ?_, congrArg (· + 1) hlen, hf'.trans hf, hc'.trans hc, hi'.trans hi⟩
      · rw [List.map_cons, ← encodeWidth_of_decodeElement hd]
      · rw [List.map_cons, runCommands, hread]; exact hrun
      · rw [respondedOk, hok, hresp', List.append_assoc]; rfl

/-- Settles O44: its READs all respond OK, so by O40 the FIELDS ends as they do, and its values are theirs. -/
theorem fieldsEqualTheirReads : Obligations.FieldsEqualTheirReads := by
  intro es s t vs hr he hresp
  obtain ⟨ns, u, ws, rfl, hrun, hok, hlen, hf, hc, hi⟩ :=
    reads_of_fieldsLoop_ok es (besideReads_of_ready hr es) ((exec_fields_ready hr es).symm.trans he) hresp
  obtain ⟨t', he', hresp', ⟨hacc, hrcnt, hreqs, hsrc, henv⟩, _, _, ⟨hft, hct, hit⟩, _⟩ :=
    fieldsCompleteAsTheirReads ns s u ws hr hrun hok hlen
  obtain rfl : t = t' := Host.Outcome.next.inj (he.symm.trans he')
  obtain rfl : vs = ws :=
    congrArg Response.values (List.singleton_inj.mp (List.append_cancel_left (hresp.symm.trans hresp')))
  exact ⟨ns, u, rfl, hrun, hok, hreqs.symm, hacc.symm, hrcnt.symm, hsrc.symm, henv.symm, hf.trans hft.symm,
    hc.trans hct.symm, hi.trans hit.symm⟩

/-! ## FIELDS on a reference source -/

/-- The place in the stream is all in what FIELDS shares with its READs. -/
theorem standsAt_of_sameStream {S : List Byte} {p : Nat} {u t : State} (h : sameStream u t) (hp : standsAt S p u) :
    standsAt S p t := by
  obtain ⟨hacc, hrcnt, _, hsrc, _⟩ := h
  rwa [standsAt, hacc, hrcnt, hsrc]

/-- A reference source answers without a move (20_memory R57). -/
theorem exec_env_of_standsAt {S : List Byte} {p : Nat} {i : Instr} {s t : State} (hr : ready s) (hp : standsAt S p s)
    (he : exec i s = .next t) : t.env = s.env := by
  obtain ⟨_, _, hsrc, _⟩ := hp
  obtain ⟨t', he', hends⟩ := exec_on_reference hr ⟨_, hsrc⟩ i
  rw [Host.Outcome.next.inj (he.symm.trans he')]
  exact hends.env

/-- A READ leaves at most 7 residue bits where it found at most 7 (10_state R32). -/
theorem exec_read_rcnt_le {n : Width} {s t : State} (h7 : s.rcnt.toNat ≤ 7) (he : exec (.read n) s = .next t) :
    t.rcnt.toNat ≤ 7 := by
  obtain ⟨f, hf⟩ := exec_eq_accept (.read n) s
  rcases accept_next (hf ▸ he) with rfl | ⟨hr, _⟩
  · exact h7
  · rw [exec_read_ready hr] at he
    rcases readCore_cases (encodeWidth n) n (begin (.read n) s) with
      ⟨_, e⟩ | ⟨_, _, x, e, _, _, _, hx, _⟩ | ⟨_, _, _, x, _, e, _, hx, _⟩ | ⟨_, hlt, _, rfl, e, _⟩ | ⟨_, e, _⟩ <;>
      rw [e] at he <;> cases he
    · exact h7
    · exact hx.elim id (·.trans h7)
    · rw [respond_rcnt, hx]; decide
    · rw [issueRequest_rcnt, drained_rcnt n _ hlt]; decide

theorem runCommands_reads_rcnt_le {ns : List Width} {s u : State} (h7 : s.rcnt.toNat ≤ 7)
    (hrun : runCommands (ns.map .read) s = .next u) : u.rcnt.toNat ≤ 7 := by
  induction ns generalizing s with
  | nil => cases hrun; exact h7
  | cons n ns ih =>
    rw [List.map_cons, runCommands] at hrun
    split at hrun
    next t he => exact ih (exec_read_rcnt_le h7 he) hrun
    next => cases hrun
    next => cases hrun

theorem streamValues_length (S : List Byte) (p : Nat) (ns : List Nat) : (streamValues S p ns).length = ns.length := by
  induction ns generalizing p with
  | nil => rfl
  | cons n ns ih => exact congrArg (· + 1) (ih (p + n))

/-- READs whose bits the stream has respond OK, one each, so that a FIELDS of theirs completes, faults or fails as they say. -/
theorem reads_of_stream {S : List Byte} {p : Nat} {s : State} {ns : List Width} (hr : ready s) (hp : standsAt S p s)
    (h64 : ∀ n ∈ ns, n.toNat ≤ 64) (hin : p + (ns.map BitVec.toNat).sum ≤ 8 * S.length) :
    ∃ u, runCommands (ns.map .read) s = .next u ∧ respondedOk s u (streamValues S p (ns.map BitVec.toNat)) ∧
      (streamValues S p (ns.map BitVec.toNat)).length = ns.length ∧
      standsAt S (p + (ns.map BitVec.toNat).sum) u := by
  obtain ⟨u, hrun, hok, hpos⟩ := runCommands_of_stream h64 hr hp hin
  exact ⟨u, hrun, hok, by rw [streamValues_length, List.length_map], hpos⟩

/-- Settles O37: its READs deliver the fields of the stream, so by O40 the FIELDS does. -/
theorem fieldsDeliverTheFieldsOfTheStream : Obligations.FieldsDeliverTheFieldsOfTheStream := by
  intro S p s ns hr hp h64 hin
  obtain ⟨u, hrun, hok, hlen, hpos⟩ := reads_of_stream hr hp h64 hin
  obtain ⟨t, he, hresp, hstream, hends⟩ := fieldsCompleteAsTheirReads ns s u _ hr hrun hok hlen
  have hrcnt : t.rcnt = u.rcnt := by obtain ⟨_, hrcnt, _⟩ := hstream; exact hrcnt
  exact ⟨t, he, hresp, standsAt_of_sameStream hstream hpos, fun h7 => hrcnt ▸ runCommands_reads_rcnt_le h7 hrun,
    exec_env_of_standsAt hr hp he, hends⟩

/-- Settles O39: the READs before the word deliver their fields, so by O41 the word faults where they end. -/
theorem fieldsFaultAtTheElementReached : Obligations.FieldsFaultAtTheElementReached := by
  intro S p s ns w after hr hp h64 hin hw
  obtain ⟨u, hrun, hok, hlen, hpos⟩ := reads_of_stream hr hp h64 hin
  obtain ⟨t, he, hfault, hcause, hinfo, hidle, _, hresp, hstat, hstream⟩ :=
    fieldsFaultAfterTheirReads ns w after s u _ hr hrun hok hlen hw
  exact ⟨t, he, hfault, hcause, hinfo, hidle, hresp, hstat, exec_env_of_standsAt hr hp he,
    standsAt_of_sameStream hstream hpos⟩

/-- Widths whose sum runs past a bound have one that crosses it. -/
theorem exists_crossing_width {bound : Nat} {ns : List Width} :
    ∀ {p : Nat}, p ≤ bound → bound < p + (ns.map BitVec.toNat).sum →
      ∃ before n rest, ns = before ++ n :: rest ∧ p + (before.map BitVec.toNat).sum ≤ bound ∧
        bound < p + (before.map BitVec.toNat).sum + n.toNat := by
  induction ns with
  | nil => intro p hle hlt; exact absurd hlt (by simpa using hle)
  | cons n ns ih =>
    intro p hle hlt
    rw [List.map_cons, List.sum_cons, ← Nat.add_assoc] at hlt
    rcases Nat.lt_or_ge bound (p + n.toNat) with hcross | hfits
    · exact ⟨[], n, ns, rfl, hle, hcross⟩
    · obtain ⟨before, m, rest, rfl, hin, hout⟩ := ih hfits hlt
      refine ⟨n :: before, m, rest, rfl, ?_, ?_⟩ <;> rw [List.map_cons, List.sum_cons, ← Nat.add_assoc] <;> assumption

/-- The status of a batch whose element after `d` delivered bits runs past the stream's end, at bit p when the batch began
(42_read_fields R123, C2). -/
theorem batch_eosStatus {p d last : Nat} (hin : p + d ≤ last) :
    (if (if p + d = last then Status.cleanEos else .truncated) = .cleanEos ∧ 0 < d then .truncated
      else if p + d = last then Status.cleanEos else .truncated) = if p = last then .cleanEos else .truncated := by
  by_cases hend : p = last
  · have hnone : d = 0 := by omega
    simp [hend, hnone]
  · by_cases hclean : p + d = last
    · have hsome : 0 < d := by omega
      simp [hend, hclean, hsome]
    · simp [hend, hclean]

/-- Settles O38: the READs before the width that crosses the stream's end deliver their fields, the READ of that width fails
(O32), and by O42 the FIELDS fails there. -/
theorem fieldsPastTheEndOfTheStream : Obligations.FieldsPastTheEndOfTheStream := by
  intro S p s ns after hr hp h64 hout
  have hinside : p ≤ 8 * S.length := by obtain ⟨_, hle, _⟩ := hp; omega
  obtain ⟨before, n, rest, rfl, hin, hcross⟩ := exists_crossing_width hinside hout
  obtain ⟨hbefore, hn, _⟩ : (∀ m ∈ before, m.toNat ≤ 64) ∧ n.toNat ≤ 64 ∧ ∀ m ∈ rest, m.toNat ≤ 64 := by
    rwa [List.forall_mem_append, List.forall_mem_cons] at h64
  obtain ⟨u, hrun, hok, hlen, hpos⟩ := reads_of_stream hr hp hbefore hin
  obtain ⟨z, hread, hresp, hrcnt, _, hsrc, _⟩ :=
    readPastTheEndOfTheStream S _ u n (ready_of_responded_ok hr hrun hok hlen) hpos hn hcross
  obtain ⟨t, he, hresp', ⟨_, hrcnt', _, hsrc', _⟩, hends⟩ :=
    fieldsFailAfterTheirReads before n (rest.map encodeWidth ++ after) s u z _ _ none hr hrun hok hlen hread hresp
      (by split <;> simp)
  rw [batch_eosStatus hin] at hresp'
  rw [List.map_append, List.map_cons, List.append_assoc, List.cons_append]
  exact ⟨t, he, hresp', hrcnt'.trans hrcnt, hsrc'.trans hsrc, exec_env_of_standsAt hr hp he, hends⟩

/-! ## FIELDS of no element -/

/-- Settles O36: the batch begins at the end of its list, and a response writes no register that it names. -/
theorem fieldsOfNoElementChangesNothing : Obligations.FieldsOfNoElementChangesNothing := by
  intro s hr
  rw [exec_fields_ready hr, List.length_nil]
  exact ⟨_, rfl, rfl, rfl, rfl, ⟨rfl, rfl, ⟨rfl, rfl, rfl⟩, rfl⟩, rfl, rfl, rfl, rfl⟩

end Sys2Proof.Machine
end

section
/-! The faulted state (60_exceptions R148), and the condition codes (R140). -/
namespace Sys2Proof.Machine
open Safety

/-- Settles O22: the codes are those that `Status.code` and `FatalCause.code` write out. -/
theorem outcomeCodesAreThoseOfTheTable : Obligations.OutcomeCodesAreThoseOfTheTable :=
  ⟨rfl, rfl, rfl, rfl, rfl, rfl⟩

/-- All that a move other than a reset changes in a faulted core: the binding, or the record of status reads. -/
theorem receive_faulted {s t : State} {e : EnvEvent} (hf : s.fault = 1) (he : e ≠ .reset)
    (h : (receive e s).outcome = .next t) : ∃ src reads, t = { s with source := src, statusReads := reads } := by
  cases e with
  | command ws =>
    obtain ⟨run, hrun⟩ := offer_eq_accept ws s
    cases (hrun.trans (accept_faulted hf run)).symm.trans h
    exact ⟨_, _, rfl⟩
  | commandHeld ws =>
    obtain ⟨run, hrun⟩ := offerHeld_eq_accept ws s
    cases (hrun.trans (accept_faulted hf run)).symm.trans h
    exact ⟨_, _, rfl⟩
  | answer r => simp only [receive, Action.outcome, deliverAnswer, answerRequest_faulted hf] at h; cases h
  | answerHeld r => simp only [receive, Action.outcome, deliverAnswerHeld, answerRequest_faulted hf] at h; cases h
  | turn =>
    simp only [receive, Action.outcome, running_of_faulted hf] at h
    cases h
    exact ⟨_, _, rfl⟩
  | abandonedAnswer r => cases h; exact ⟨_, _, rfl⟩
  | reset => exact absurd rfl he
  | readStatus => cases h; exact ⟨_, _, rfl⟩
  | bind src =>
    simp only [receive, bindSource, Action.outcome] at h
    split at h <;> cases h
    exact ⟨_, _, rfl⟩
  | foreignConsume => cases h

/-- All that a step changes in a faulted core, if it takes no reset: the moves to come, the binding, the record of status
reads. -/
theorem step_faulted {s t : State} (hf : s.fault = 1) (hne : ∀ rest, s.env ≠ .reset :: rest) (h : step s = .next t) :
    ∃ env src reads, t = { s with env := env, source := src, statusReads := reads } := by
  have hrun := running_of_faulted hf
  cases henv : s.env with
  | nil =>
    rw [step_of_env_nil henv, hrun] at h
    cases h
    exact ⟨_, _, _, rfl⟩
  | cons e rest =>
    rw [step_of_env_cons henv, if_neg (by simp [hrun])] at h
    have he : e ≠ .reset := fun he => hne rest (by rw [henv, he])
    obtain ⟨src, reads, ht⟩ := receive_faulted (s := { s with env := rest }) hf he h
    exact ⟨rest, src, reads, ht⟩

/-- Settles O12: admission is the first thing that a command and a transaction meet, and a step takes a reset or changes
nothing that O12 names. -/
theorem faultedStateIsLeftOnlyByReset : Obligations.FaultedStateIsLeftOnlyByReset := by
  intro s hf
  refine ⟨exec_faulted hf, fun ws rest henv => step_transaction_faulted hf henv, fun t h => ?_, fun start => if_pos hf⟩
  by_cases hreset : ∃ rest, s.env = .reset :: rest
  · exact .inl hreset
  · obtain ⟨_, _, _, rfl⟩ := step_faulted hf (fun rest henv => hreset ⟨rest, henv⟩) h
    exact .inr ⟨⟨rfl, rfl, rfl⟩, rfl, rfl, rfl, rfl⟩

end Sys2Proof.Machine
end

section
/-! A response leaves the core ready, and the residue empty where a ReadCore failed: through every part of a step
(41_read R94, R106, 60_exceptions R147, 70_reset_and_hazards R175). -/
namespace Sys2Proof.Machine
open Safety

/-! ## What one response leaves -/

/-- A next state, if the outcome is one, has the responses `rs` and no more, or one more that leaves the core ready, its
residue empty if the status is not OK (60_exceptions R147). -/
def RespondsAtMostOnce (rs : List Response) (o : Result) : Prop :=
  ∀ t, o = .next t →
    t.responses = rs ∨ ∃ r, t.responses = rs ++ [r] ∧ ready t ∧ (r.status ≠ .ok → t.rcnt = 0)

theorem respondsAtMostOnce_next (s : State) : RespondsAtMostOnce s.responses (.next s) := by
  rintro _ ⟨⟩
  exact .inl rfl

theorem respondsAtMostOnce_fault (rs : List Response) (f : Fault) : RespondsAtMostOnce rs (.fault f) := by
  rintro _ ⟨⟩

theorem respondsAtMostOnce_refused (rs : List Response) (r : Refusal) : RespondsAtMostOnce rs (.refused r) := by
  rintro _ ⟨⟩

/-- A response hands the core back to the host (20_memory R52, R53). -/
theorem respondsAtMostOnce_respond {s : State} {r : Response} (hf : s.fault = 0) (hr : r.status ≠ .ok → s.rcnt = 0) :
    RespondsAtMostOnce s.responses (.next (respond r s)) := by
  rintro _ ⟨⟩
  exact .inr ⟨r, rfl, ⟨hf, rfl⟩, hr⟩

/-- A fatal fault gives no response (60_exceptions R146). -/
theorem respondsAtMostOnce_raiseFatal (c : FatalCause) (w : CmdWord) (s : State) :
    RespondsAtMostOnce s.responses (.next (raiseFatal c w s)) := by
  rintro _ ⟨⟩
  exact .inl rfl

/-- What comes after a part of a command that gave no response. -/
theorem SameAccount.respondsAtMostOnce {s u : State} {o : Result} (h : SameAccount s u)
    (ho : RespondsAtMostOnce u.responses o) : RespondsAtMostOnce s.responses o := by
  rwa [← h.resp]

/-! ## A ReadCore that fails -/

/-- A ReadCore that returns another status than OK returns with an empty residue (41_read R106). -/
def CoreResult.failsEmpty : CoreResult → Prop
  | .done st _ _ t => st ≠ .ok → t.rcnt = 0
  | .waiting _ => True
  | .raised _ => True
  | .broken _ => True

/-- Only a refill can fail, and a refill is asked for when the residue is empty (41_read R91, R94). -/
theorem readTurn_failsEmpty {s : State} {res : CoreResult} (h : readTurn s = .ends res) : res.failsEmpty := by
  unfold readTurn at h
  split at h
  · cases h; exact fun hst => absurd rfl hst
  · split at h
    · rcases sourceReadExact_cases (refillSize s.work.rem.toNat) s with ⟨r, u, e, _, hu⟩ | ⟨e, _⟩ | ⟨e, _⟩ <;>
        simp only [e] at h
      · have hrcnt : u.rcnt = 0 := by rcases hu with ⟨_, _, _, rfl⟩ | ⟨_, _, _, rfl⟩ <;> assumption
        split at h <;> cases h
        exact fun _ => hrcnt
      · cases h; trivial
      · cases h; trivial
    · cases h

theorem readLoop_failsEmpty (fuel : Nat) (s : State) : (readLoop fuel s).failsEmpty := by
  induction fuel generalizing s with
  | zero => exact fun hst => absurd rfl hst
  | succ fuel ih =>
    rw [readLoop]
    cases h : readTurn s with
    | more u => exact ih u
    | ends res => exact readTurn_failsEmpty h

theorem readCore_failsEmpty (w : CmdWord) (n : Width) (s : State) : (readCore w n s).failsEmpty := by
  rw [readCore]
  split
  · trivial
  · exact readLoop_failsEmpty _ _

/-- The request of a waiting ReadCore fails as one that is answered at once (20_memory R41 step 3). -/
theorem resumeCore_failsEmpty {s : State} (h0 : s.rcnt = 0) (r : SrcResponse) : (resumeCore r s).failsEmpty := by
  rw [resumeCore]
  split
  · exact readLoop_failsEmpty _ _
  · exact fun _ => h0

/-! ## The command that the ReadCore serves -/

section
variable {s : State} {res : CoreResult} (hf : s.fault = 0) (hkeep : res.keepsAccount s) (hempty : res.failsEmpty)
include hf hkeep hempty

/-- A READ after its ReadCore (41_read R110). -/
theorem finishRead_respondsAtMostOnce : RespondsAtMostOnce s.responses (finishRead res) := by
  cases res with
  | done st v e t => exact hkeep.respondsAtMostOnce (respondsAtMostOnce_respond (hkeep.fault.trans hf) hempty)
  | waiting t => exact hkeep.respondsAtMostOnce (respondsAtMostOnce_next t)
  | raised t =>
    obtain ⟨c, w, u, rfl, hu⟩ := hkeep
    exact hu.respondsAtMostOnce (respondsAtMostOnce_raiseFatal c w u)
  | broken f => exact respondsAtMostOnce_fault _ f

/-- A batch after its element's ReadCore: it responds only where that failed, and else goes on (42_read_fields R123 to
R125). -/
theorem afterElement_respondsAtMostOnce {goOn : State → Result}
    (hgo : ∀ u : State, u.fault = 0 → RespondsAtMostOnce u.responses (goOn u)) :
    RespondsAtMostOnce s.responses (afterElement res goOn) := by
  cases res with
  | done st v e t =>
    have hft : t.fault = 0 := hkeep.fault.trans hf
    refine hkeep.respondsAtMostOnce ?_
    by_cases hst : st = .ok
    · subst hst
      exact hgo (recordField v t) hft
    · rw [afterElement_failed hst]
      exact respondsAtMostOnce_respond hft fun _ => hempty hst
  | waiting t => exact hkeep.respondsAtMostOnce (respondsAtMostOnce_next t)
  | raised t =>
    obtain ⟨c, w, u, rfl, hu⟩ := hkeep
    exact hu.respondsAtMostOnce (respondsAtMostOnce_raiseFatal c w u)
  | broken f => exact respondsAtMostOnce_fault _ f
end

/-- A batch at the end of its list responds with the status OK (42_read_fields R125). -/
theorem batchEnd_respondsAtMostOnce {s : State} (hf : s.fault = 0) :
    RespondsAtMostOnce s.responses (.next (respond (listResponse .ok s.work.results none) s)) :=
  respondsAtMostOnce_respond hf fun hst => absurd rfl hst

/-- The elements still to come, by induction. -/
theorem fieldsLoop_respondsAtMostOnce (es : List CmdWord) :
    ∀ s : State, s.fault = 0 → RespondsAtMostOnce s.responses (fieldsLoop es s) := by
  induction es with
  | nil => exact fun s hf => batchEnd_respondsAtMostOnce hf
  | cons w es ih =>
    intro s hf
    cases hd : decodeElement w with
    | none =>
      rw [fieldsLoop_illegal hd]
      exact respondsAtMostOnce_raiseFatal _ _ (nextElement s)
    | some n =>
      rw [fieldsLoop_cons hd]
      exact afterElement_respondsAtMostOnce (s := nextElement s) hf (readCore_keepsAccount w n _)
        (readCore_failsEmpty w n _) ih

theorem enterNextElement_respondsAtMostOnce (es : List CmdWord) (s : State) (hf : s.fault = 0) :
    RespondsAtMostOnce s.responses (enterNextElement es s) := by
  have hraise : ∀ c w, RespondsAtMostOnce s.responses (.next (raiseFatal c w (nextElement s))) := fun c w =>
    respondsAtMostOnce_raiseFatal c w (nextElement s)
  unfold enterNextElement
  cases es.drop s.work.idx.toNat with
  | nil => exact batchEnd_respondsAtMostOnce hf
  | cons w rest =>
    cases hd : decodeElement w with
    | none => simp only [hd]; exact hraise _ _
    | some n =>
      simp only [hd]
      split
      · exact hraise _ _
      · exact respondsAtMostOnce_next (enterCore n (nextElement s))

theorem finishInit_respondsAtMostOnce {s : State} (hf : s.fault = 0) :
    RespondsAtMostOnce s.responses (.next (finishInit s)) :=
  respondsAtMostOnce_respond (s := emptyResidue s) hf fun _ => rfl

/-- A command in execution goes on after its ReadCore. -/
theorem continueCommand_respondsAtMostOnce {s : State} {res : CoreResult} (hf : s.fault = 0) (hkeep : res.keepsAccount s)
    (hempty : res.failsEmpty) : RespondsAtMostOnce s.responses (continueCommand s res) := by
  unfold continueCommand
  split
  · exact finishRead_respondsAtMostOnce hf hkeep hempty
  · exact afterElement_respondsAtMostOnce hf hkeep hempty (fieldsLoop_respondsAtMostOnce _)
  · exact respondsAtMostOnce_refused _ _
  · exact respondsAtMostOnce_refused _ _

theorem runOn_respondsAtMostOnce {s : State} (hf : s.fault = 0) : RespondsAtMostOnce s.responses (runOn s) := by
  have hkeep := readLoop_keepsAccount s.work.rem.toNat s
  have hempty := readLoop_failsEmpty s.work.rem.toNat s
  match hc : s.cur with
  | none => simp only [runOn, hc]; exact respondsAtMostOnce_refused _ _
  | some .init =>
    rw [runOn_init hc]
    exact finishInit_respondsAtMostOnce hf
  | some (.read n) =>
    rw [runOn_read hc]
    exact finishRead_respondsAtMostOnce hf hkeep hempty
  | some (.fields es) =>
    by_cases hi : s.work.idx = 0
    · rw [runOn_batch_start hc hi]
      exact fieldsLoop_respondsAtMostOnce es s hf
    · rw [runOn_element hc hi]
      exact afterElement_respondsAtMostOnce hf hkeep hempty (fieldsLoop_respondsAtMostOnce _)

/-- A turn of the loop gives no response, and the ReadCore that it ends goes on as `finish` says. -/
theorem endTurn_respondsAtMostOnce {finish : CoreResult → Result} {s : State}
    (hfin : ∀ res : CoreResult, res.keepsAccount s → res.failsEmpty → RespondsAtMostOnce s.responses (finish res)) :
    RespondsAtMostOnce s.responses (endTurn finish (readTurn s)) := by
  have hkeep := readTurn_keepsAccount s
  cases h : readTurn s with
  | more u =>
    rw [h] at hkeep
    exact hkeep.respondsAtMostOnce (respondsAtMostOnce_next u)
  | ends res =>
    rw [h] at hkeep
    exact hfin res hkeep (readTurn_failsEmpty h)

theorem commandTurn_respondsAtMostOnce {s : State} (hf : s.fault = 0) :
    RespondsAtMostOnce s.responses (commandTurn s) := by
  match hc : s.cur with
  | none => simp only [commandTurn, hc]; exact respondsAtMostOnce_refused _ _
  | some .init =>
    rw [commandTurn_of_init hc]
    exact finishInit_respondsAtMostOnce hf
  | some (.read n) =>
    rw [commandTurn_of_read hc]
    exact endTurn_respondsAtMostOnce fun _ => finishRead_respondsAtMostOnce hf
  | some (.fields es) =>
    by_cases hi : s.work.idx = 0
    · rw [commandTurn_of_batch_start hc hi]
      exact enterNextElement_respondsAtMostOnce es s hf
    · rw [commandTurn_of_element hc hi]
      exact endTurn_respondsAtMostOnce fun _ hkeep hempty =>
        afterElement_respondsAtMostOnce hf hkeep hempty (enterNextElement_respondsAtMostOnce es)

/-! ## Moves of the environment -/

theorem accept_respondsAtMostOnce {s : State} {run : State → Result}
    (h : ready s → RespondsAtMostOnce s.responses (run s)) : RespondsAtMostOnce s.responses (accept s run) := by
  intro t ht
  rcases accept_next ht with rfl | ⟨hr, hrun⟩
  · exact .inl rfl
  · exact h hr t hrun

/-- A command on a core that accepts it. -/
theorem exec_respondsAtMostOnce_of_ready {s : State} (hr : ready s) (i : Instr) :
    RespondsAtMostOnce s.responses (exec i s) := by
  have hf : (begin i s).fault = 0 := hr.1
  cases i with
  | read n =>
    rw [exec_read_ready hr]
    exact finishRead_respondsAtMostOnce (s := begin (.read n) s) hf (readCore_keepsAccount _ n _)
      (readCore_failsEmpty _ n _)
  | fields es =>
    rw [exec_fields_ready hr]
    exact fieldsLoop_respondsAtMostOnce es (enterBatch es.length (begin (.fields es) s)) hf
  | init =>
    rw [exec_init_ready hr]
    exact finishInit_respondsAtMostOnce hf

theorem exec_respondsAtMostOnce (i : Instr) (s : State) : RespondsAtMostOnce s.responses (exec i s) := by
  obtain ⟨run, h⟩ := exec_eq_accept i s
  rw [h]
  refine accept_respondsAtMostOnce fun hr => ?_
  rw [← accept_ready hr run, ← h]
  exact exec_respondsAtMostOnce_of_ready hr i

/-- A command that is left at its start has not responded (log entry 8). -/
theorem startCommand_respondsAtMostOnce (i : Instr) (s : State) : RespondsAtMostOnce s.responses (startCommand i s) := by
  cases i with
  | read n =>
    simp only [startCommand]
    split
    · exact respondsAtMostOnce_raiseFatal _ _ (begin (.read n) s)
    · exact respondsAtMostOnce_next (enterCore n (begin (.read n) s))
  | fields es => exact respondsAtMostOnce_next (enterBatch es.length (begin (.fields es) s))
  | init => exact respondsAtMostOnce_next (begin .init s)

theorem rejectTransaction_respondsAtMostOnce (e : DecodeError) (s : State) :
    RespondsAtMostOnce s.responses (rejectTransaction e s) := by
  rcases rejectTransaction_cases e s with ⟨w, _, h⟩ | ⟨_, h⟩ <;> rw [h] <;>
    refine accept_respondsAtMostOnce fun _ => ?_
  · exact respondsAtMostOnce_raiseFatal _ w s
  · exact respondsAtMostOnce_refused _ _

theorem offer_respondsAtMostOnce (ws : List CmdWord) (s : State) :
    RespondsAtMostOnce s.responses (offer ws s).outcome := by
  rw [offer]
  cases decode ws with
  | instr i => exact exec_respondsAtMostOnce i s
  | rejected e => exact rejectTransaction_respondsAtMostOnce e s

theorem offerHeld_respondsAtMostOnce (ws : List CmdWord) (s : State) :
    RespondsAtMostOnce s.responses (offerHeld ws s) := by
  rw [offerHeld]
  cases decode ws with
  | instr i => exact accept_respondsAtMostOnce fun _ => startCommand_respondsAtMostOnce i s
  | rejected e => exact rejectTransaction_respondsAtMostOnce e s

/-- An answer, if the core is waiting with an empty residue, whatever it then does with the answer (20_memory R41). -/
theorem answerRequest_respondsAtMostOnce {s : State} {act : State → Result} (r : SrcResponse)
    (hw : s.ctrl = .waitSrc → s.rcnt = 0)
    (hact : s.fault = 0 → s.rcnt = 0 → RespondsAtMostOnce s.responses (act (takeAnswer s))) :
    RespondsAtMostOnce s.responses (answerRequest r s act) := by
  rcases answerRequest_cases r s act with ⟨e, _⟩ | ⟨_, _, _, _, _, e⟩ | ⟨_, hf, hc, _, _, e⟩ <;> rw [e]
  · exact respondsAtMostOnce_fault _ _
  · exact respondsAtMostOnce_fault _ _
  · exact hact hf (hw hc)

theorem deliverAnswer_respondsAtMostOnce {s : State} (r : SrcResponse) (hw : s.ctrl = .waitSrc → s.rcnt = 0) :
    RespondsAtMostOnce s.responses (deliverAnswer r s) :=
  answerRequest_respondsAtMostOnce r hw fun hf h0 =>
    continueCommand_respondsAtMostOnce hf ((resumeCore_keepsAccount r (takeAnswer s)).after (sameAccount_takeAnswer s))
      (resumeCore_failsEmpty (s := takeAnswer s) h0 r)

/-- An answer that is held ends the command only if it is a failure (log entry 8). -/
theorem deliverAnswerHeld_respondsAtMostOnce {s : State} (r : SrcResponse) (hw : s.ctrl = .waitSrc → s.rcnt = 0) :
    RespondsAtMostOnce s.responses (deliverAnswerHeld r s) := by
  refine answerRequest_respondsAtMostOnce r hw fun hf h0 => ?_
  rcases coreAnswer_cases r (takeAnswer s) with ⟨bs, rfl, _⟩ | ⟨st, e, _, _, ha, _⟩
  · exact respondsAtMostOnce_next (refill bs (takeAnswer s))
  · simp only [ha]
    exact continueCommand_respondsAtMostOnce hf (sameAccount_takeAnswer s) fun _ => h0

theorem fault_zero_of_running {s : State} (h : running s = true) : s.fault = 0 := (of_decide_eq_true h).2

/-- Every move of the environment. -/
theorem receive_respondsAtMostOnce {s : State} (hw : s.ctrl = .waitSrc → s.rcnt = 0) (e : EnvEvent) :
    RespondsAtMostOnce s.responses (receive e s).outcome := by
  cases e with
  | command ws => exact offer_respondsAtMostOnce ws s
  | commandHeld ws => exact offerHeld_respondsAtMostOnce ws s
  | answer r => exact deliverAnswer_respondsAtMostOnce r hw
  | answerHeld r => exact deliverAnswerHeld_respondsAtMostOnce r hw
  | turn =>
    simp only [receive, Action.outcome]
    split
    · exact commandTurn_respondsAtMostOnce (fault_zero_of_running ‹_›)
    · exact respondsAtMostOnce_next s
  | abandonedAnswer r => exact respondsAtMostOnce_next s
  | reset => exact respondsAtMostOnce_next (hardwareReset s)
  | readStatus => exact respondsAtMostOnce_next (readStatusView s)
  | bind src =>
    simp only [receive, bindSource, Action.outcome]
    split
    · exact respondsAtMostOnce_next { s with source := src }
    · exact respondsAtMostOnce_refused _ _
  | foreignConsume => exact respondsAtMostOnce_refused _ _

/-! ## The step -/

/-- A step is an executing command running on, or a move of the environment. -/
theorem step_respondsAtMostOnce {s : State} (hw : s.ctrl = .waitSrc → s.rcnt = 0) :
    RespondsAtMostOnce s.responses (step s) := by
  cases henv : s.env with
  | nil =>
    rw [step_of_env_nil henv]
    split
    · exact runOn_respondsAtMostOnce (fault_zero_of_running ‹_›)
    · exact respondsAtMostOnce_next s
  | cons e rest =>
    rw [step_of_env_cons henv]
    split
    · rename_i hrun
      exact runOn_respondsAtMostOnce (fault_zero_of_running hrun.1)
    · exact receive_respondsAtMostOnce (s := { s with env := rest }) hw e

/-- A faulted core gives no response, reset or not (60_exceptions R148, 70_reset_and_hazards R170). -/
theorem responses_of_step_faulted {s t : State} (hf : s.fault = 1) (h : step s = .next t) : t.responses = s.responses := by
  by_cases hreset : ∃ rest, s.env = .reset :: rest
  · obtain ⟨rest, henv⟩ := hreset
    obtain ⟨_, hdone⟩ := step_of_move (.inr rfl) henv
    rw [hdone _ rfl] at h
    cases h
    rfl
  · obtain ⟨_, _, _, rfl⟩ := step_faulted hf (fun rest henv => hreset ⟨rest, henv⟩) h
    rfl

/-- Settles O48: a step responds at most once, a waiting core's residue being empty; and the fault registers of a core
without a fault are all zero, before and after. -/
theorem responsesLeaveTheCoreReady : Obligations.ResponsesLeaveTheCoreReady := by
  intro s t hi h hne
  have hwait : s.ctrl = .waitSrc → s.rcnt = 0 := fun hc => (hi.wait hc).1
  obtain ⟨r, hresp, hready, hempty⟩ := (step_respondsAtMostOnce hwait t h).resolve_left hne
  have hf : s.fault = 0 := (BitVec.eq_zero_or_eq_one s.fault).resolve_right fun hf => hne (responses_of_step_faulted hf h)
  obtain ⟨hf0, hcause0, hinfo0⟩ := clear_of_fault_zero hi.faults hf
  obtain ⟨hf1, hcause1, hinfo1⟩ := clear_of_fault_zero (step_keepsInv hi t h).faults hready.1
  exact ⟨r, hresp, hf, hready, ⟨hf1.trans hf0.symm, hcause1.trans hcause0.symm, hinfo1.trans hinfo0.symm⟩, hempty⟩

end Sys2Proof.Machine
end

section
/-! Hardware reset in any state, and the late answer that it leaves behind (70_reset_and_hazards R170, R171). -/
namespace Sys2Proof.Machine

/-- A reset comes at any time: an executing command does not run on first. -/
theorem step_of_reset {s : State} {rest : List EnvEvent} (henv : s.env = .reset :: rest) :
    step s = .next (hardwareReset { s with env := rest }) := by
  obtain ⟨_, hdone⟩ := step_of_move (.inr rfl) henv
  exact hdone _ rfl

/-- So does the late answer to an abandoned request, and the block does not take it. -/
theorem step_of_abandonedAnswer {s : State} {r : SrcResponse} {rest : List EnvEvent}
    (henv : s.env = .abandonedAnswer r :: rest) : step s = .next { s with env := rest } := by
  obtain ⟨_, hdone⟩ := step_of_move (.inr rfl) henv
  exact hdone _ rfl

/-- Settles O13: a step that meets a reset is `hardwareReset`, whose registers and frame are its `@[simp]` lemmas. -/
theorem resetAtAnyTimeRestoresTheResetValues : Obligations.ResetAtAnyTimeRestoresTheResetValues := by
  intro s rest henv
  refine ⟨_, step_of_reset henv, ?_⟩
  simp

/-- Settles O14: the reset ends the command and its request whatever CTRL is, and the late answer finds nothing to take it. -/
theorem resetAbandonsTheCommandAndItsRequest : Obligations.ResetAbandonsTheCommandAndItsRequest := by
  constructor
  · intro s rest _ henv
    refine ⟨_, step_of_reset henv, ?_⟩
    simp
  · intro s r rest henv
    exact step_of_abandonedAnswer henv

end Sys2Proof.Machine
end

section
/-! A transaction placed before the moves to come, and the opcode-table word that the host's tool places so (the model's
interface, log entry 6). -/
namespace Sys2Proof.Machine
open Safety

/-- A table word is the command of its transaction: it has none exactly where the decoder rejects the transaction. -/
theorem decodeTableWord_eq_some_iff {nbits w : Nat} {i : Instr} :
    decodeTableWord nbits w = some i ↔ decode (tableTransaction nbits w) = .instr i := by
  rw [decodeTableWord]
  cases decode (tableTransaction nbits w) <;> simp

/-- A placed transaction finds the block idle and without a fault, so the next step runs its command, and the moves to come
are left as they were. -/
theorem step_offerNext {s : State} {ws : List CmdWord} {i : Instr} (hd : decode ws = .instr i) :
    step (offerNext ws s) = exec i { s with fault := 0, ctrl := .idle } :=
  have hready : ready (offerNext ws s) := ⟨offerNext_fault ws s, offerNext_ctrl ws s⟩
  stepRunsTheIssuedCommand _ ws s.env i (running_of_ready hready) (offerNext_env ws s) hd

/-- Settles O8: the placed word is its transaction, offered as the next move. -/
theorem stepRunsThePlacedTableWord : Obligations.StepRunsThePlacedTableWord := by
  intro s nbits w i hword
  exact step_offerNext (decodeTableWord_eq_some_iff.mp hword)

end Sys2Proof.Machine
end
